-- ==== Sys2Proof/Word.lean ====
section
/-! DEFINITION. The word types of 00_scope.md R5 to R8: unsigned values of a fixed width. -/

namespace Sys2Proof

/-- A byte of memory, a general register, a timer (R21, R29, R50). -/
abbrev Byte := BitVec 8

/-- An instruction word, the index register, the program counter, a return address (R23, R25, R27, R80). -/
abbrev Word := BitVec 16

/-- A 4-bit field: a register number or a row count (R82, R84). -/
abbrev Nibble := BitVec 4

/-- The 12-bit field `NNN`, an absolute byte address (R82, R84). -/
abbrev Addr := BitVec 12

end Sys2Proof
end

