-- ==== Sys2Proof/Machine/Flags.lean ====
section
/-! DEFINITION. Results and flags of the arithmetic, shift and index instructions (41_alu.md R137 to R142, R161). -/

namespace Sys2Proof.Machine

/-- `zext_9(a) + zext_9(b)` (R132, R137). -/
def sum9 (a b : Byte) : BitVec 9 := a.setWidth 9 + b.setWidth 9

/-- `s[7:0]` of the sum. -/
def addResult (a b : Byte) : Byte := (sum9 a b).extractLsb' 0 8

/-- `s[8]`: 1 when the sum exceeds 255 (R137). -/
def carryOut (a b : Byte) : Bool := (sum9 a b).getLsbD 8

/-- `(zext_9(a) - zext_9(b))[7:0]` (R138, R139). -/
def subResult (a b : Byte) : Byte := (a.setWidth 9 - b.setWidth 9).extractLsb' 0 8

/-- Not-borrow: 0 when the subtrahend `b` exceeds the minuend `a`, else 1 (R138, R139). -/
def notBorrow (a b : Byte) : Bool := if b > a then false else true

/-- `s >> 1` (R140). -/
def shrResult (a : Byte) : Byte := a >>> 1

/-- The bit shifted out at the bottom (R140). -/
def shrOut (a : Byte) : Bool := a.getLsbD 0

/-- `(zext_9(s) << 1)[7:0]` (R141). -/
def shlResult (a : Byte) : Byte := (a.setWidth 9 <<< 1).extractLsb' 0 8

/-- The bit shifted out at the top (R141). -/
def shlOut (a : Byte) : Bool := a.getLsbD 7

/-- `t = zext_17(I) + zext_17(V[X])` (R161). -/
def indexSum (i : Word) (b : Byte) : BitVec 17 := i.setWidth 17 + b.setWidth 17

/-- `zext_16(t[11:0])` (R161). -/
def indexResult (i : Word) (b : Byte) : Word := ((indexSum i b).extractLsb' 0 12).setWidth 16

/-- Index overflow: `t > 0xFFF` (R161). -/
def indexOverflow (i : Word) (b : Byte) : Bool := decide (indexSum i b > 0xFFF)

end Sys2Proof.Machine
end

