-- ==== Sys2Proof/Syntax.lean ====
section
/-! DEFINITION. The 34 instructions of the opcode map, 30_encoding.md R87, one constructor a row, in its order. -/

namespace Sys2Proof

/-- The instructions. `x`, `y` are register numbers, `n` a row count, `nn` a byte, `nnn` an address (R82, R84). In
`seReg` and `sneReg` the field `n` is the nibble the decoder ignores (R88); it is kept so that no bit of a word is lost. -/
inductive Instr where
  | cls                            -- 00E0
  | ret                            -- 00EE
  | jp (nnn : Addr)                -- 1NNN
  | call (nnn : Addr)              -- 2NNN
  | seImm (x : Nibble) (nn : Byte)        -- 3XNN
  | sneImm (x : Nibble) (nn : Byte)       -- 4XNN
  | seReg (x y n : Nibble)         -- 5XY_
  | ldImm (x : Nibble) (nn : Byte)        -- 6XNN
  | addImm (x : Nibble) (nn : Byte)       -- 7XNN
  | ldReg (x y : Nibble)           -- 8XY0
  | or (x y : Nibble)              -- 8XY1
  | and (x y : Nibble)             -- 8XY2
  | xor (x y : Nibble)             -- 8XY3
  | addReg (x y : Nibble)          -- 8XY4
  | sub (x y : Nibble)             -- 8XY5
  | shr (x y : Nibble)             -- 8XY6
  | subn (x y : Nibble)            -- 8XY7
  | shl (x y : Nibble)             -- 8XYE
  | sneReg (x y n : Nibble)        -- 9XY_
  | ldI (nnn : Addr)               -- ANNN
  | jpV0 (nnn : Addr)              -- BNNN
  | rnd (x : Nibble) (nn : Byte)          -- CXNN
  | drw (x y n : Nibble)           -- DXYN
  | skp (x : Nibble)               -- EX9E
  | sknp (x : Nibble)              -- EXA1
  | ldVxDt (x : Nibble)            -- FX07
  | ldVxK (x : Nibble)             -- FX0A
  | ldDtVx (x : Nibble)            -- FX15
  | ldStVx (x : Nibble)            -- FX18
  | addI (x : Nibble)              -- FX1E
  | ldF (x : Nibble)               -- FX29
  | ldB (x : Nibble)               -- FX33
  | stRegs (x : Nibble)            -- FX55
  | ldRegs (x : Nibble)            -- FX65
  deriving DecidableEq, Repr

end Sys2Proof
end

