-- ==== Sys2Proof/Decode.lean ====
section
/-! DEFINITION. Decoding and encoding, 30_encoding.md R80 to R94: fields, the opcode map, words from bytes. -/

namespace Sys2Proof

/-! ### Fields (R82) -/

/-- `G`, the opcode group. -/
def opG (op : Word) : Nibble := op.extractLsb' 12 4

/-- `X`. -/
def opX (op : Word) : Nibble := op.extractLsb' 8 4

/-- `Y`. -/
def opY (op : Word) : Nibble := op.extractLsb' 4 4

/-- `N`. -/
def opN (op : Word) : Nibble := op.extractLsb' 0 4

/-- `NN`, the second byte. -/
def opNN (op : Word) : Byte := op.extractLsb' 0 8

/-- `NNN`. -/
def opNNN (op : Word) : Addr := op.extractLsb' 0 12

/-! ### The opcode map (R87) -/

/-- One row of the opcode map: a word `op` selects it when `op & mask = pat`; `build` reads the row's operands. -/
structure Row where
  mask : Word
  pat : Word
  build : Word → Instr

/-- `op & mask = match`. -/
def Row.accepts (r : Row) (op : Word) : Bool := op &&& r.mask == r.pat

/-- Rows 1 to 9 of R87. -/
def rowsLow : List Row := [
  ⟨0xFFFF, 0x00E0, fun _ => .cls⟩,
  ⟨0xFFFF, 0x00EE, fun _ => .ret⟩,
  ⟨0xF000, 0x1000, fun op => .jp (opNNN op)⟩,
  ⟨0xF000, 0x2000, fun op => .call (opNNN op)⟩,
  ⟨0xF000, 0x3000, fun op => .seImm (opX op) (opNN op)⟩,
  ⟨0xF000, 0x4000, fun op => .sneImm (opX op) (opNN op)⟩,
  ⟨0xF000, 0x5000, fun op => .seReg (opX op) (opY op) (opN op)⟩,
  ⟨0xF000, 0x6000, fun op => .ldImm (opX op) (opNN op)⟩,
  ⟨0xF000, 0x7000, fun op => .addImm (opX op) (opNN op)⟩]

/-- Rows 10 to 18 of R87: group 8, selected by `N`. -/
def rowsGroup8 : List Row := [
  ⟨0xF00F, 0x8000, fun op => .ldReg (opX op) (opY op)⟩,
  ⟨0xF00F, 0x8001, fun op => .or (opX op) (opY op)⟩,
  ⟨0xF00F, 0x8002, fun op => .and (opX op) (opY op)⟩,
  ⟨0xF00F, 0x8003, fun op => .xor (opX op) (opY op)⟩,
  ⟨0xF00F, 0x8004, fun op => .addReg (opX op) (opY op)⟩,
  ⟨0xF00F, 0x8005, fun op => .sub (opX op) (opY op)⟩,
  ⟨0xF00F, 0x8006, fun op => .shr (opX op) (opY op)⟩,
  ⟨0xF00F, 0x8007, fun op => .subn (opX op) (opY op)⟩,
  ⟨0xF00F, 0x800E, fun op => .shl (opX op) (opY op)⟩]

/-- Rows 19 to 23 of R87. -/
def rowsHigh : List Row := [
  ⟨0xF000, 0x9000, fun op => .sneReg (opX op) (opY op) (opN op)⟩,
  ⟨0xF000, 0xA000, fun op => .ldI (opNNN op)⟩,
  ⟨0xF000, 0xB000, fun op => .jpV0 (opNNN op)⟩,
  ⟨0xF000, 0xC000, fun op => .rnd (opX op) (opNN op)⟩,
  ⟨0xF000, 0xD000, fun op => .drw (opX op) (opY op) (opN op)⟩]

/-- Rows 24 to 34 of R87: groups E and F, selected by the whole of `NN` (R86, 90_conflicts.md C4). -/
def rowsGroupEF : List Row := [
  ⟨0xF0FF, 0xE09E, fun op => .skp (opX op)⟩,
  ⟨0xF0FF, 0xE0A1, fun op => .sknp (opX op)⟩,
  ⟨0xF0FF, 0xF007, fun op => .ldVxDt (opX op)⟩,
  ⟨0xF0FF, 0xF00A, fun op => .ldVxK (opX op)⟩,
  ⟨0xF0FF, 0xF015, fun op => .ldDtVx (opX op)⟩,
  ⟨0xF0FF, 0xF018, fun op => .ldStVx (opX op)⟩,
  ⟨0xF0FF, 0xF01E, fun op => .addI (opX op)⟩,
  ⟨0xF0FF, 0xF029, fun op => .ldF (opX op)⟩,
  ⟨0xF0FF, 0xF033, fun op => .ldB (opX op)⟩,
  ⟨0xF0FF, 0xF055, fun op => .stRegs (opX op)⟩,
  ⟨0xF0FF, 0xF065, fun op => .ldRegs (opX op)⟩]

/-- The complete opcode map, in the order of R87. -/
def opcodeRows : List Row := rowsLow ++ rowsGroup8 ++ rowsHigh ++ rowsGroupEF

/-- The instruction a word selects, `none` for an unmatched word (R86, R89). -/
def decodeWord (op : Word) : Option Instr :=
  (opcodeRows.find? (fun r => r.accepts op)).map (fun r => r.build op)

/-! ### Words and bytes (R56, R81) -/

/-- The word of two fetched bytes, the first (lower-address) byte the more significant. -/
def wordOf (hi lo : Byte) : Word := hi ++ lo

/-- The byte at the lower address. -/
def highByte (op : Word) : Byte := op.extractLsb' 8 8

/-- The byte at the higher address. -/
def lowByte (op : Word) : Byte := op.extractLsb' 0 8

/-- What decoding a byte sequence answers: an instruction and the bytes after it, an unmatched word (R89) and the bytes
after it, or that there are not two bytes. -/
inductive Decoded where
  | instr (i : Instr) (rest : List Byte)
  | unmatched (op : Word) (rest : List Byte)
  | tooShort
  deriving DecidableEq, Repr

/-- Decoding, total on any bytes: every instruction is two bytes (R80). -/
def decode : List Byte → Decoded
  | hi :: lo :: rest =>
    match decodeWord (wordOf hi lo) with
    | some i => .instr i rest
    | none => .unmatched (wordOf hi lo) rest
  | _ => .tooShort

/-! ### Encoding -/

/-- The word of an instruction, written from the formats of R83 and the patterns of R87. -/
def encode : Instr → Word
  | .cls => 0x00E0#16
  | .ret => 0x00EE#16
  | .jp nnn => 0x1#4 ++ nnn
  | .call nnn => 0x2#4 ++ nnn
  | .seImm x nn => 0x3#4 ++ x ++ nn
  | .sneImm x nn => 0x4#4 ++ x ++ nn
  | .seReg x y n => 0x5#4 ++ x ++ y ++ n
  | .ldImm x nn => 0x6#4 ++ x ++ nn
  | .addImm x nn => 0x7#4 ++ x ++ nn
  | .ldReg x y => 0x8#4 ++ x ++ y ++ 0x0#4
  | .or x y => 0x8#4 ++ x ++ y ++ 0x1#4
  | .and x y => 0x8#4 ++ x ++ y ++ 0x2#4
  | .xor x y => 0x8#4 ++ x ++ y ++ 0x3#4
  | .addReg x y => 0x8#4 ++ x ++ y ++ 0x4#4
  | .sub x y => 0x8#4 ++ x ++ y ++ 0x5#4
  | .shr x y => 0x8#4 ++ x ++ y ++ 0x6#4
  | .subn x y => 0x8#4 ++ x ++ y ++ 0x7#4
  | .shl x y => 0x8#4 ++ x ++ y ++ 0xE#4
  | .sneReg x y n => 0x9#4 ++ x ++ y ++ n
  | .ldI nnn => 0xA#4 ++ nnn
  | .jpV0 nnn => 0xB#4 ++ nnn
  | .rnd x nn => 0xC#4 ++ x ++ nn
  | .drw x y n => 0xD#4 ++ x ++ y ++ n
  | .skp x => 0xE#4 ++ x ++ 0x9E#8
  | .sknp x => 0xE#4 ++ x ++ 0xA1#8
  | .ldVxDt x => 0xF#4 ++ x ++ 0x07#8
  | .ldVxK x => 0xF#4 ++ x ++ 0x0A#8
  | .ldDtVx x => 0xF#4 ++ x ++ 0x15#8
  | .ldStVx x => 0xF#4 ++ x ++ 0x18#8
  | .addI x => 0xF#4 ++ x ++ 0x1E#8
  | .ldF x => 0xF#4 ++ x ++ 0x29#8
  | .ldB x => 0xF#4 ++ x ++ 0x33#8
  | .stRegs x => 0xF#4 ++ x ++ 0x55#8
  | .ldRegs x => 0xF#4 ++ x ++ 0x65#8

/-- The two bytes of an instruction, in the order of their addresses. -/
def encodeBytes (i : Instr) : List Byte := [highByte (encode i), lowByte (encode i)]

/-! ### The opcode table's numbering -/

/-- The word whose bits, numbered as spec/opcode_table.json numbers them, are the low `nbits` bits of `w`. -/
def tableWord (nbits w : Nat) : Word := BitVec.ofNat 16 (w % 2 ^ nbits)

/-- What the decoder reads from the bytes of that word, laid out in memory order. -/
def decodeTableWord (nbits w : Nat) : Option Instr :=
  match decode [highByte (tableWord nbits w), lowByte (tableWord nbits w)] with
  | .instr i _ => some i
  | _ => none

end Sys2Proof
end

