-- ==== Sys2Proof/Config.lean ====
section
/-! DEFINITION. The parameters 00_scope.md R5 fixes, and the free values of the host's inputs. -/

namespace Sys2Proof.Config

/-- `MEM_SIZE`: addresses 0x000 to 0xFFF (R5, R50). -/
abbrev memSize : Nat := 4096

/-- `FONT_BASE` (R5, R51). -/
abbrev fontBase : Nat := 0x050

/-- The size of `FONT_DATA`: sixteen glyphs of `FONT_GLYPH_BYTES` = 5 bytes (R5, R53). -/
abbrev fontSize : Nat := 80

/-- `PROG_BASE` (R5, R51). -/
abbrev progBase : Nat := 0x200

/-- `RESET_PC` (R5, R25). -/
abbrev resetPc : Word := 0x200

/-- The longest program Reset takes, `MEM_SIZE - 0x200` (R54). -/
abbrev maxProgram : Nat := 3584

/-- The key-state input at the `n`-th operation, when that is a Step no listed request supplies inputs for: any value (R34 e, 93 U8).
Log entry 3. -/
opaque freeKeys : Nat → BitVec 16

/-- The random byte at the `n`-th operation, when that is a Step no listed request supplies inputs for: any value (R34 f, R190, 93 U7).
Log entry 3. -/
opaque freeRnd : Nat → BitVec 8

/-- Whether the `n`-th operation of an open-ended host is a Tick, else it is a Step: any infinite word over Step and Tick
(R257). Log entry 3. -/
opaque freeTick : Nat → Bool

end Sys2Proof.Config
end

