-- ==== Sys2Proof/Machine/State.lean ====
section
/-! DEFINITION. The state of the machine, 10_state.md R20 to R36, and what stops a step. -/

namespace Sys2Proof.Machine

/-- `Q`, the three configuration bits (R30), fixed from one Reset to the next (R253). -/
structure Quirks where
  /-- bit 0: 8XY6 and 8XYE shift `V[X]`, not `V[Y]` (R140, R141) -/
  shiftIgnoresVy : Bool
  /-- bit 1: FX55 and FX65 leave `I` unchanged (R164, R165) -/
  noIndexIncrement : Bool
  /-- bit 2: BNNN adds `V[X]`, not `V[0]` (R117) -/
  jumpUsesVx : Bool
  deriving DecidableEq, Repr

/-- The report output of a Step (60_exceptions.md R210). -/
inductive Report where
  /-- the Step raised nothing -/
  | none
  /-- 00EE with the stack empty (R211) -/
  | stackUnderflow
  /-- a fetch (R213) or a data access (R212) outside the memory; `addr` is the lowest address outside -/
  | outOfBoundsAddress (addr : Word)
  /-- a word no row of the opcode map matches (R214) -/
  | unmatchedOpcode (op : Word)
  deriving DecidableEq, Repr

/-- The inputs of Reset (R34 a, b; R250), with `FONT_DATA`, which R5 and R53 make an argument of the model. -/
structure ResetInputs where
  quirks : BitVec 3
  font : Vector Byte Config.fontSize
  program : List Byte
  deriving DecidableEq, Repr

/-- An operation the host asks for (R11, R36), with its inputs. -/
inductive Request where
  /-- execute one instruction, with the inputs it samples (R34 c, e, f) -/
  | step (keys : BitVec 16) (rnd : Byte)
  /-- advance the timers by one tick (R34 d) -/
  | tick
  /-- start again (R250) -/
  | reset (inputs : ResetInputs)
  /-- MODEL: from here on, without end, any word over Step and Tick with any inputs (R257). It stays listed. Log entry 2. -/
  | free
  deriving DecidableEq, Repr

/-- Why the machine would stop with a fault. Nothing raises one: no report, no instruction and no state stops the block
(60_exceptions.md R218), so the type has no constructor. Safe: no behaviour of the block is left out by it. -/
inductive Fault where
  deriving DecidableEq, Repr

/-- Why a step has no meaning. -/
inductive Refusal where
  /-- An instruction without a meaning yet. No arm of `exec` raises it: every instruction has its meaning. Safe. -/
  | notModelled (mnemonic : String)
  /-- Reset with a program longer than 3584 bytes, outside the model's domain (20_memory.md R54, 93 U14). Raised by
  serving such a Reset request only. Safe: the model stops where the source says nothing. -/
  | programTooLong (length : Nat)
  deriving DecidableEq, Repr

/-- Memory: the bytes that differ from what an unlisted address reads as, by rising address (R50). -/
abbrev Memory := List Host.Cell

/-- The display buffer, rows from the top, columns from the left (R28). -/
abbrev Display := Vector (Vector Bool 64) 32

/-- The state: the block's own (R20), its interface's inputs and output as of the latest Step (R34, R35), and the
model's record of reports, the host's coming requests and the count of free inputs drawn. -/
structure State where
  /-- `V[0..15]` (R21); `V[15]` is also the flag register (R22) -/
  v : Vector Byte 16
  /-- the index register `I` (R23) -/
  i : Word
  /-- the program counter (R25) -/
  pc : Word
  /-- the call stack, the entry pushed last at the head (R27) -/
  stack : List Word
  /-- the display buffer (R28) -/
  disp : Display
  /-- the delay timer `DT` (R29) -/
  dt : Byte
  /-- the sound timer `ST` (R29) -/
  st : Byte
  /-- the quirk bits `Q` (R30) -/
  quirks : Quirks
  /-- the sticky diagnostic bit (R31) -/
  halted : Bool
  /-- the 4096 bytes of `mem` (R32, R50) -/
  mem : Memory
  /-- the `keys` input as the latest Step sampled it (R34 e, R85 line 1) -/
  keys : BitVec 16
  /-- the `rnd` input as the latest Step sampled it (R34 f, R85 line 1) -/
  rnd : Byte
  /-- the report of the latest Step (R35 c, R210) -/
  report : Report
  /-- MODEL: every report raised since Reset, newest first (R260 a). Log entry 4. -/
  reported : List Report
  /-- MODEL: the host's coming operations, the next one at the head (R36, R257). Log entry 2. -/
  requests : List Request
  /-- MODEL: how many operations have been served by free values. Log entry 3. -/
  drawn : Nat
  deriving DecidableEq, Repr

/-- The machine right after Reset (R250, R262), with the default font, no program and the quirk bits 0 (log entries 5
to 9 and 21). -/
def State.reset : State where
  v := Vector.replicate 16 0
  i := 0
  pc := Config.resetPc
  stack := []
  disp := Vector.replicate 32 (Vector.replicate 64 false)
  dt := 0
  st := 0
  quirks := ⟨false, false, false⟩
  halted := false
  mem := []
  keys := 0
  rnd := 0
  report := .none
  reported := []
  requests := []
  drawn := 0

end Sys2Proof.Machine
end

