-- ==== Sys2Proof/WellFormed.lean ====
section
/-! DEFINITION. Which terms are well formed: instructions as an assembler emits them, Reset inputs inside the domain.
Operand ranges need no check: the field types of `Instr` are exactly as wide as the fields of R82. -/

namespace Sys2Proof

/-- The instruction is the one an assembler emits: the ignored nibble of 5XY_ and 9XY_ is 0 (30_encoding.md R88, R92).
The machine runs the other forms too, with the same effect. -/
def Instr.wf : Instr → Bool
  | .seReg _ _ n => n == 0
  | .sneReg _ _ n => n == 0
  | .cls | .ret | .jp _ | .call _ | .seImm _ _ | .sneImm _ _ | .ldImm _ _ | .addImm _ _ | .ldReg _ _ | .or _ _
  | .and _ _ | .xor _ _ | .addReg _ _ | .sub _ _ | .shr _ _ | .subn _ _ | .shl _ _ | .ldI _ | .jpV0 _ | .rnd _ _
  | .drw _ _ _ | .skp _ | .sknp _ | .ldVxDt _ | .ldVxK _ | .ldDtVx _ | .ldStVx _ | .addI _ | .ldF _ | .ldB _
  | .stRegs _ | .ldRegs _ => true

/-- The program fits between 0x200 and the top of memory (20_memory.md R54). -/
def Machine.ResetInputs.wf (inp : Machine.ResetInputs) : Bool := decide (inp.program.length ≤ Config.maxProgram)

/-- A request the host may make (70_reset_and_hazards.md R261). -/
def Machine.Request.wf : Machine.Request → Bool
  | .reset inp => inp.wf
  | .step _ _ => true
  | .tick => true
  | .free => true

end Sys2Proof
end

