-- ==== Sys2Proof/Machine/Ops.lean ====
section
/-! DEFINITION. The named operations over memory, registers, display, stack and reports. -/

namespace Sys2Proof.Machine

/-! ### Memory -/

/-- The glyph of a hexadecimal digit, rows top to bottom: the default of `FONT_DATA` (20_memory.md R53, from general
knowledge, 93 G1). PRESUMED, log entry 7. -/
def fontGlyph : Nat → List Byte
  | 0x0 => [0xF0, 0x90, 0x90, 0x90, 0xF0]
  | 0x1 => [0x20, 0x60, 0x20, 0x20, 0x70]
  | 0x2 => [0xF0, 0x10, 0xF0, 0x80, 0xF0]
  | 0x3 => [0xF0, 0x10, 0xF0, 0x10, 0xF0]
  | 0x4 => [0x90, 0x90, 0xF0, 0x10, 0x10]
  | 0x5 => [0xF0, 0x80, 0xF0, 0x10, 0xF0]
  | 0x6 => [0xF0, 0x80, 0xF0, 0x90, 0xF0]
  | 0x7 => [0xF0, 0x10, 0x20, 0x40, 0x40]
  | 0x8 => [0xF0, 0x90, 0xF0, 0x90, 0xF0]
  | 0x9 => [0xF0, 0x90, 0xF0, 0x10, 0xF0]
  | 0xA => [0xF0, 0x90, 0xF0, 0x90, 0x90]
  | 0xB => [0xE0, 0x90, 0xE0, 0x90, 0xE0]
  | 0xC => [0xF0, 0x80, 0x80, 0x80, 0xF0]
  | 0xD => [0xE0, 0x90, 0x90, 0x90, 0xE0]
  | 0xE => [0xF0, 0x80, 0xF0, 0x80, 0xF0]
  | 0xF => [0xF0, 0x80, 0xF0, 0x80, 0x80]
  | _ => []

/-- Byte `k` of the default `FONT_DATA`: row `k mod 5` of digit `k / 5` (R53). -/
def fontByte (k : Nat) : Byte := (fontGlyph (k / 5)).getD (k % 5) 0

/-- The default `FONT_DATA` as a Reset argument. -/
def defaultFont : Vector Byte Config.fontSize := Vector.ofFn (fun k => fontByte k.val)

/-- What an unlisted address reads as: the contents Reset gives it with the default font and no program, the font at
0x050 to 0x09F (R53) and 0x00 elsewhere (R52). Log entries 7 and 8. -/
def unlistedByte (a : Nat) : Byte :=
  if Config.fontBase ≤ a ∧ a < Config.fontBase + Config.fontSize then fontByte (a - Config.fontBase) else 0

/-- `mem[a]`. -/
def Memory.read : Memory → Nat → Byte
  | [], a => unlistedByte a
  | c :: m, a => if c.1 = a then c.2 else Memory.read m a

/-- One cell put before memory that lies above it, unless it holds what the address reads as unlisted. -/
def Memory.cons (a : Nat) (b : Byte) (m : Memory) : Memory := if b = unlistedByte a then m else (a, b) :: m

/-- `mem[a] <- b`, keeping the canonical form. -/
def Memory.write : Memory → Nat → Byte → Memory
  | [], a, b => Memory.cons a b []
  | c :: m, a, b =>
    if a < c.1 then Memory.cons a b (c :: m)
    else if a = c.1 then Memory.cons a b m
    else c :: Memory.write m a b

/-- Bytes written at consecutive addresses, the first at `a`. -/
def Memory.writeBytes : Memory → Nat → List Byte → Memory
  | m, _, [] => m
  | m, a, b :: bs => Memory.writeBytes (Memory.write m a b) (a + 1) bs

/-- The canonical form: addresses strictly rising, each inside the memory, no cell equal to what an unlisted address
reads as. -/
def Memory.wf (m : Memory) : Bool :=
  decide (m.Pairwise (fun c d => c.1 < d.1)) && m.all (fun c => decide (c.1 < Config.memSize) && c.2 != unlistedByte c.1)

/-- `InRange(addr, n)`, the sum exact (R55). -/
def inRange (addr n : Nat) : Bool := decide (1 ≤ n) && decide (addr + n - 1 ≤ Config.memSize - 1)

/-- The lowest address outside the memory in a range that starts at `a` and leaves it: `max(a, 0x1000)` (R166, R213). -/
def firstOutside (a : Word) : Word := if a < 0x1000 then 0x1000 else a

/-! ### Registers -/

/-- `V[x]` (R21). -/
def State.readV (s : State) (x : Nibble) : Byte := s.v[x.toNat]'x.isLt

/-- `V[x] <- b` (R21). -/
def State.writeV (s : State) (x : Nibble) (b : Byte) : State := { s with v := s.v.set x.toNat b x.isLt }

/-- The value of `V[15]` that reports a flag (R22). -/
def flagByte (b : Bool) : Byte := if b then 1 else 0

/-- `V[15] <- 0 or 1` (R22). -/
def State.writeFlag (s : State) (b : Bool) : State := s.writeV 15 (flagByte b)

/-- Result to `V[x]`, then flag to `V[15]` (41_alu.md R130). -/
def State.writeResultFlag (s : State) (x : Nibble) (res : Byte) (flag : Bool) : State := (s.writeV x res).writeFlag flag

/-- `I <- a` (R23). -/
def State.setI (s : State) (a : Word) : State := { s with i := a }

/-- `DT <- b` (R29). -/
def State.setDt (s : State) (b : Byte) : State := { s with dt := b }

/-- `ST <- b` (R29). -/
def State.setSt (s : State) (b : Byte) : State := { s with st := b }

/-! ### Program counter and stack -/

/-- `pc <- a`. -/
def State.setPc (s : State) (a : Word) : State := { s with pc := a }

/-- `pc <- pc + 2`: the advance of R85 line 4, and a taken skip (R113). -/
def State.advance (s : State) : State := s.setPc (s.pc + 2)

/-- A skip over two bytes when `c` holds (R113 to R116, R191, R192). -/
def State.skipIf (s : State) (c : Bool) : State := if c then s.advance else s

/-- The instruction's own address, while it executes: the advanced pc less 2 (R11, R85). -/
def State.instrAddr (s : State) : Word := s.pc - 2

/-- A jump: `halted <- 1` when the target is the instruction's own address, then `pc <- target` (R111, R117, R31). -/
def State.jumpTo (s : State) (target : Word) : State :=
  { s with halted := s.halted || target == s.instrAddr, pc := target }

/-- `push(a)` (R27). -/
def State.push (s : State) (a : Word) : State := { s with stack := a :: s.stack }

/-! ### Reports -/

/-- `raise r` (R10, R210, R216): the Step's report output takes the report and the model's record keeps it. Nothing is
saved, no mode changes and control goes nowhere: this is all that taking an exception is here. -/
def State.raise (s : State) (r : Report) : State := { s with report := r, reported := r :: s.reported }

/-- The codes of R210. -/
def Report.code : Report → Nat
  | .none => 0
  | .stackUnderflow => 1
  | .outOfBoundsAddress _ => 2
  | .unmatchedOpcode _ => 3

/-- `pc <- pop()`, or `StackUnderflow` when the stack is empty (R110, R211). -/
def State.popPc (s : State) : State :=
  match s.stack with
  | [] => s.raise .stackUnderflow
  | a :: rest => { s with stack := rest, pc := a }

/-- The whole-range check of R166: `k` when it passes, else `OutOfBoundsAddress` and nothing changed. -/
def State.checked (s : State) (ok : Bool) (k : State → State) : State :=
  if ok then k s else s.raise (.outOfBoundsAddress (firstOutside s.i))

/-! ### Memory accesses of an instruction -/

/-- `MemRead(a, 1)`. -/
def State.readByte (s : State) (a : Nat) : Byte := s.mem.read a

/-- `MemWrite(a, 1, b)`. -/
def State.writeByte (s : State) (a : Nat) (b : Byte) : State := { s with mem := s.mem.write a b }

/-- `for j from 0 to n - 1: MemWrite(I + j, 1, V[j])` (R164). -/
def State.storeBlock (s : State) (n : Nat) : State :=
  (List.range n).foldl (fun t j => t.writeByte (s.i.toNat + j) (s.readV (BitVec.ofNat 4 j))) s

/-- `for j from 0 to n - 1: V[j] <- MemRead(I + j, 1)` (R165). -/
def State.loadBlock (s : State) (n : Nat) : State :=
  (List.range n).foldl (fun t j => t.writeV (BitVec.ofNat 4 j) (s.readByte (s.i.toNat + j))) s

/-! ### Display -/

/-- `disp[r][c]` (R28). -/
def Display.cell (d : Display) (r c : Nat) : Bool := if h : r < 32 ∧ c < 64 then (d[r]'h.1)[c]'h.2 else false

/-- `disp[r][c] <- disp[r][c] ^ b` (R181). -/
def Display.xorCell (d : Display) (r c : Nat) (b : Bool) : Display :=
  if h : r < 32 ∧ c < 64 then d.set r ((d[r]'h.1).set c (((d[r]'h.1)[c]'h.2) ^^ b) h.2) h.1 else d

/-- All 2048 cells 0 (R28, R180). -/
def Display.clear : Display := Vector.replicate 32 (Vector.replicate 64 false)

/-- `disp <- d`. -/
def State.setDisp (s : State) (d : Display) : State := { s with disp := d }

/-! ### The operations of the host: Step line 1 to 3, Tick, Reset -/

/-- Line 1 of R85: the inputs are sampled, and the Step has raised nothing yet. -/
def State.sample (s : State) (k : BitVec 16) (r : Byte) : State := { s with keys := k, rnd := r, report := .none }

/-- `MemRead(pc, 2)` (R56, R57, R81). -/
def State.fetchWord (s : State) : Word := wordOf (s.readByte s.pc.toNat) (s.readByte (s.pc.toNat + 1))

/-- One timer's countdown, never below 0 (R221). -/
def countdown (b : Byte) : Byte := if b = 0 then 0 else b - 1

/-- Tick (R221). -/
def State.tick (s : State) : State := { s with dt := countdown s.dt, st := countdown s.st }

/-- The quirk bits of the `quirks` input (R30). -/
def Quirks.ofBits (q : BitVec 3) : Quirks := ⟨q.getLsbD 0, q.getLsbD 1, q.getLsbD 2⟩

/-- The memory Reset leaves: fill, font, program (R52, R53, R54, R250). -/
def resetImage (inp : ResetInputs) : Memory :=
  Memory.writeBytes (Memory.writeBytes [] Config.fontBase inp.font.toList) Config.progBase inp.program

/-- The state after Reset with these inputs (R250); the host's remaining requests and the count of free inputs are not
the block's and stay. -/
def State.resetWith (s : State) (inp : ResetInputs) : State :=
  { State.reset with
    quirks := Quirks.ofBits inp.quirks, mem := resetImage inp, requests := s.requests, drawn := s.drawn }

/-- Reset: refused for a program that does not fit (R54, R251). -/
def reset (inp : ResetInputs) (s : State) : Host.Outcome State Fault Refusal :=
  if inp.wf then .next (s.resetWith inp) else .refused (.programTooLong inp.program.length)

/-! ### Placing an instruction where the next Step fetches -/

/-- Whether the request is a Step. -/
def Request.isStep : Request → Bool
  | .step _ _ => true
  | .tick => false
  | .reset _ => false
  | .free => false

/-- The `n`-th operation of an open-ended host: a Tick, or a Step with any inputs (R257). Log entry 3. -/
def freeOperation (n : Nat) : Request :=
  if Config.freeTick n then .tick else .step (Config.freeKeys n) (Config.freeRnd n)

/-- The requests from the next Step on: one listed, the first of an open-ended host made a Step with free inputs, or none. -/
def stepFirst (n : Nat) : List Request → List Request
  | [] => []
  | .step k r :: rest => .step k r :: rest
  | .free :: rest => .step (Config.freeKeys n) (Config.freeRnd n) :: .free :: rest
  | .tick :: rest => stepFirst n rest
  | .reset _ :: rest => stepFirst n rest

/-- The state with the opcode table's word where the next Step fetches: at pc, or at 0x200 with pc moved there when no
two bytes can be fetched at pc; requests for other operations that stand before the next Step are dropped. -/
def State.placeWord (s : State) (nbits w : Nat) : State :=
  let a : Word := if inRange s.pc.toNat 2 then s.pc else Config.resetPc
  { s with
    pc := a
    mem := (s.mem.write a.toNat (highByte (tableWord nbits w))).write (a.toNat + 1) (lowByte (tableWord nbits w))
    requests := stepFirst s.drawn s.requests }

end Sys2Proof.Machine
end

