-- ==== Sys2Proof/Machine/Operands.lean ====
section
/-! DEFINITION. The operand forms that depend on a quirk bit, a register's value or an input. -/

namespace Sys2Proof.Machine

/-- The source of 8XY6 and 8XYE (R140, R141; 90_conflicts.md C5). Log entry 12. -/
def State.shiftSource (s : State) (x y : Nibble) : Byte :=
  if s.quirks.shiftIgnoresVy then s.readV x else s.readV y

/-- The offset BNNN adds: `V[X]`, `X = NNN[11:8]`, or `V[0]` (R117). -/
def State.jumpOffset (s : State) (nnn : Addr) : Byte :=
  if s.quirks.jumpUsesVx then s.readV (nnn.extractLsb' 8 4) else s.readV 0

/-- BNNN's target `zext_16(NNN) + zext_16(off)`, not masked (R117). -/
def State.jumpTarget (s : State) (nnn : Addr) : Word := nnn.setWidth 16 + (s.jumpOffset nnn).setWidth 16

/-- `I` after FX55 or FX65: `I + X` unless the quirk is on (R164, R165). -/
def State.bulkIndex (s : State) (x : Nibble) : Word :=
  if s.quirks.noIndexIncrement then s.i else s.i + x.setWidth 16

/-- FX29's address `0x0050 + 5 * zext_16(V[X][3:0])` (R162). -/
def fontAddress (b : Byte) : Word := 0x0050 + 5 * (b.extractLsb' 0 4).setWidth 16

/-- The three digits of FX33, hundreds first (R163). -/
def bcdDigits (b : Byte) : List Byte := [b / 100, b / 10 % 10, b % 10]

/-- `held`: the value names a key and that key's bit is 1 (R191, R192). Log entry 16. -/
def State.keyHeld (s : State) (b : Byte) : Bool := decide (b.toNat < 16) && s.keys.getLsbD b.toNat

/-- The least held key, for a key vector that is not 0 (R194). -/
def leastKey (keys : BitVec 16) : Nat := ((List.range 16).find? (fun j => keys.getLsbD j)).getD 0

end Sys2Proof.Machine
end

