-- ==== Sys2Proof/Machine/Alu.lean ====
section
/-! DEFINITION. Register loads, arithmetic, logic, shifts: 41_alu.md. Operands are read first, then the result is
written, then the flag (R130). -/

namespace Sys2Proof.Machine

/-- 6XNN LD (R131). -/
def execLdImm (x : Nibble) (nn : Byte) (s : State) : Host.Outcome State Fault Refusal := .next (s.writeV x nn)

/-- 7XNN ADD (R132): no flag. -/
def execAddImm (x : Nibble) (nn : Byte) (s : State) : Host.Outcome State Fault Refusal :=
  .next (s.writeV x (addResult (s.readV x) nn))

/-- 8XY0 LD (R133). -/
def execLdReg (x y : Nibble) (s : State) : Host.Outcome State Fault Refusal := .next (s.writeV x (s.readV y))

/-- 8XY1 OR (R134): no flag. -/
def execOr (x y : Nibble) (s : State) : Host.Outcome State Fault Refusal := .next (s.writeV x (s.readV x ||| s.readV y))

/-- 8XY2 AND (R135): no flag. -/
def execAnd (x y : Nibble) (s : State) : Host.Outcome State Fault Refusal := .next (s.writeV x (s.readV x &&& s.readV y))

/-- 8XY3 XOR (R136): no flag. -/
def execXor (x y : Nibble) (s : State) : Host.Outcome State Fault Refusal := .next (s.writeV x (s.readV x ^^^ s.readV y))

/-- 8XY4 ADD (R137): carry. -/
def execAddReg (x y : Nibble) (s : State) : Host.Outcome State Fault Refusal :=
  .next (s.writeResultFlag x (addResult (s.readV x) (s.readV y)) (carryOut (s.readV x) (s.readV y)))

/-- 8XY5 SUB (R138): `V[X] - V[Y]`, not-borrow. -/
def execSub (x y : Nibble) (s : State) : Host.Outcome State Fault Refusal :=
  .next (s.writeResultFlag x (subResult (s.readV x) (s.readV y)) (notBorrow (s.readV x) (s.readV y)))

/-- 8XY6 SHR (R140): the bit shifted out. -/
def execShr (x y : Nibble) (s : State) : Host.Outcome State Fault Refusal :=
  .next (s.writeResultFlag x (shrResult (s.shiftSource x y)) (shrOut (s.shiftSource x y)))

/-- 8XY7 SUBN (R139): `V[Y] - V[X]`, not-borrow. -/
def execSubn (x y : Nibble) (s : State) : Host.Outcome State Fault Refusal :=
  .next (s.writeResultFlag x (subResult (s.readV y) (s.readV x)) (notBorrow (s.readV y) (s.readV x)))

/-- 8XYE SHL (R141): the bit shifted out. -/
def execShl (x y : Nibble) (s : State) : Host.Outcome State Fault Refusal :=
  .next (s.writeResultFlag x (shlResult (s.shiftSource x y)) (shlOut (s.shiftSource x y)))

end Sys2Proof.Machine
end

