-- ==== Sys2Proof/Machine/ControlFlow.lean ====
section
/-! DEFINITION. Return, jumps, call, register skips: 40_control_flow.md. Each meaning starts from the state R85 leaves
after line 4: inputs sampled, word fetched, pc advanced. -/

namespace Sys2Proof.Machine

/-- 00EE RET (R110). -/
def execRet (s : State) : Host.Outcome State Fault Refusal := .next s.popPc

/-- 1NNN JP (R111). -/
def execJp (nnn : Addr) (s : State) : Host.Outcome State Fault Refusal := .next (s.jumpTo (nnn.setWidth 16))

/-- 2NNN CALL (R112). -/
def execCall (nnn : Addr) (s : State) : Host.Outcome State Fault Refusal :=
  .next ((s.push s.pc).setPc (nnn.setWidth 16))

/-- 3XNN SE (R113). -/
def execSeImm (x : Nibble) (nn : Byte) (s : State) : Host.Outcome State Fault Refusal :=
  .next (s.skipIf (s.readV x == nn))

/-- 4XNN SNE (R114). -/
def execSneImm (x : Nibble) (nn : Byte) (s : State) : Host.Outcome State Fault Refusal :=
  .next (s.skipIf (s.readV x != nn))

/-- 5XY_ SE (R115); the nibble is ignored (R88). -/
def execSeReg (x y _n : Nibble) (s : State) : Host.Outcome State Fault Refusal :=
  .next (s.skipIf (s.readV x == s.readV y))

/-- 9XY_ SNE (R116); the nibble is ignored (R88). -/
def execSneReg (x y _n : Nibble) (s : State) : Host.Outcome State Fault Refusal :=
  .next (s.skipIf (s.readV x != s.readV y))

/-- BNNN JP V0 (R117). -/
def execJpV0 (nnn : Addr) (s : State) : Host.Outcome State Fault Refusal := .next (s.jumpTo (s.jumpTarget nnn))

end Sys2Proof.Machine
end

