-- ==== Sys2Proof/Machine/Display.lean ====
section
/-! DEFINITION. Clear screen and the XOR sprite compositor: 43_display.md. -/

namespace Sys2Proof.Machine

/-- 00E0 CLS (R180). -/
def execCls (s : State) : Host.Outcome State Fault Refusal := .next (s.setDisp Display.clear)

/-- The display while a sprite is drawn, and whether a set cell has met a set sprite bit. -/
abbrev Canvas := Display × Bool

/-- Column `c` of a sprite row `b` on display row `py`: `b[7 - c]` (R182) tested against the cell, then exclusive-ORed
into it; a column past 63 is skipped (R181). -/
def drawColumn (b : Byte) (py x0 : Nat) (k : Canvas) (c : Nat) : Canvas :=
  if x0 + c > 63 then k
  else (k.1.xorCell py (x0 + c) (b.getLsbD (7 - c)), k.2 || (b.getLsbD (7 - c) && k.1.cell py (x0 + c)))

/-- Row `r` of the sprite at `i`: a row past 31 is skipped, its byte not read (R181). -/
def drawRow (m : Memory) (i x0 y0 : Nat) (k : Canvas) (r : Nat) : Canvas :=
  if y0 + r > 31 then k else (List.range 8).foldl (drawColumn (m.read (i + r)) (y0 + r) x0) k

/-- The `n` rows of the sprite at `i`, drawn at column `x0`, row `y0` (R181). -/
def drawSprite (m : Memory) (i x0 y0 n : Nat) (d : Display) : Canvas :=
  (List.range n).foldl (drawRow m i x0 y0) (d, false)

/-- The sprite drawn at `V[X] mod 64`, `V[Y] mod 32`, the coordinates read before the flag is cleared (R181). -/
def State.sprite (s : State) (x y n : Nibble) : Canvas :=
  drawSprite s.mem s.i.toNat ((s.readV x).toNat % 64) ((s.readV y).toNat % 32) n.toNat s.disp

/-- DXYN DRW (R181): no range check when `N` = 0; cells and flag together. -/
def execDrw (x y n : Nibble) (s : State) : Host.Outcome State Fault Refusal :=
  .next (s.checked (n == 0 || inRange s.i.toNat n.toNat)
    (fun t => (t.setDisp (t.sprite x y n).1).writeFlag (t.sprite x y n).2))

end Sys2Proof.Machine
end

