-- ==== Sys2Proof/Machine/IndexMemory.lean ====
section
/-! DEFINITION. The index register, loads and stores: 42_index_memory.md. -/

namespace Sys2Proof.Machine

/-- ANNN LD I (R160). -/
def execLdI (nnn : Addr) (s : State) : Host.Outcome State Fault Refusal := .next (s.setI (nnn.setWidth 16))

/-- FX1E ADD I (R161): index, then overflow to `V[15]`. -/
def execAddI (x : Nibble) (s : State) : Host.Outcome State Fault Refusal :=
  .next ((s.setI (indexResult s.i (s.readV x))).writeFlag (indexOverflow s.i (s.readV x)))

/-- FX29 LD F (R162). -/
def execLdF (x : Nibble) (s : State) : Host.Outcome State Fault Refusal := .next (s.setI (fontAddress (s.readV x)))

/-- FX33 LD B (R163, R166). -/
def execLdB (x : Nibble) (s : State) : Host.Outcome State Fault Refusal :=
  .next (s.checked (inRange s.i.toNat 3)
    (fun t => { t with mem := t.mem.writeBytes t.i.toNat (bcdDigits (t.readV x)) }))

/-- FX55 LD [I], Vx (R164, R166). -/
def execStRegs (x : Nibble) (s : State) : Host.Outcome State Fault Refusal :=
  .next (s.checked (inRange s.i.toNat (x.toNat + 1)) (fun t => (t.storeBlock (x.toNat + 1)).setI (t.bulkIndex x)))

/-- FX65 LD Vx, [I] (R165, R166). -/
def execLdRegs (x : Nibble) (s : State) : Host.Outcome State Fault Refusal :=
  .next (s.checked (inRange s.i.toNat (x.toNat + 1)) (fun t => (t.loadBlock (x.toNat + 1)).setI (t.bulkIndex x)))

end Sys2Proof.Machine
end

