-- ==== Sys2Proof/Machine/TimersKeysRandom.lean ====
section
/-! DEFINITION. Random, keypad and timer instructions: 44_timers_keys_random.md. The inputs are the ones this Step
sampled (R34, R85 line 1). -/

namespace Sys2Proof.Machine

/-- CXNN RND (R190). -/
def execRnd (x : Nibble) (nn : Byte) (s : State) : Host.Outcome State Fault Refusal := .next (s.writeV x (s.rnd &&& nn))

/-- EX9E SKP (R191). -/
def execSkp (x : Nibble) (s : State) : Host.Outcome State Fault Refusal := .next (s.skipIf (s.keyHeld (s.readV x)))

/-- EXA1 SKNP (R192). -/
def execSknp (x : Nibble) (s : State) : Host.Outcome State Fault Refusal := .next (s.skipIf (!s.keyHeld (s.readV x)))

/-- FX07 LD Vx, DT (R193). -/
def execLdVxDt (x : Nibble) (s : State) : Host.Outcome State Fault Refusal := .next (s.writeV x s.dt)

/-- FX0A LD Vx, K (R194): no key held rewinds pc by 2, else the least held key. -/
def execLdVxK (x : Nibble) (s : State) : Host.Outcome State Fault Refusal :=
  .next (if s.keys = 0 then s.setPc s.instrAddr else s.writeV x (BitVec.ofNat 8 (leastKey s.keys)))

/-- FX15 LD DT, Vx (R195). -/
def execLdDtVx (x : Nibble) (s : State) : Host.Outcome State Fault Refusal := .next (s.setDt (s.readV x))

/-- FX18 LD ST, Vx (R196). -/
def execLdStVx (x : Nibble) (s : State) : Host.Outcome State Fault Refusal := .next (s.setSt (s.readV x))

end Sys2Proof.Machine
end

