-- ==== Sys2Proof/Machine/Serve.lean ====
section
/-! DEFINITION. Serving the host's next request: the Step of 30_encoding.md R85, Tick (R221), Reset (R250). -/

namespace Sys2Proof.Machine

/-- Lines 2 to 6 of R85, for a state whose inputs have been sampled: the range check of the fetch (R213), the fetch, the
advance, and the row's rule or `UnmatchedOpcode` (R214). -/
def fetchExecute (s : State) : Host.Outcome State Fault Refusal :=
  if inRange s.pc.toNat 2 then
    match decodeWord s.fetchWord with
    | some i => exec i s.advance
    | none => .next (s.advance.raise (.unmatchedOpcode s.fetchWord))
  else .next (s.raise (.outOfBoundsAddress (firstOutside s.pc)))

/-- Step, with the inputs it samples (R85). -/
def runStep (keys : BitVec 16) (rnd : Byte) (s : State) : Host.Outcome State Fault Refusal :=
  fetchExecute (s.sample keys rnd)

/-- An operation of an open-ended host: a Tick or a Step with free inputs, as the free word has it (R257, log entry 3). -/
def serveFree (s : State) : Host.Outcome State Fault Refusal :=
  if Config.freeTick s.drawn then .next (State.tick { s with drawn := s.drawn + 1 })
  else runStep (Config.freeKeys s.drawn) (Config.freeRnd s.drawn) { s with drawn := s.drawn + 1 }

/-- The host's next request served, or, when none is listed, a Step with free inputs (log entries 2 and 3). An
open-ended host stays listed. -/
def serve (s : State) : Host.Outcome State Fault Refusal :=
  match s.requests with
  | [] => runStep (Config.freeKeys s.drawn) (Config.freeRnd s.drawn) { s with drawn := s.drawn + 1 }
  | .step k r :: rest => runStep k r { s with requests := rest }
  | .tick :: rest => .next { s with requests := rest }.tick
  | .reset inp :: rest => reset inp { s with requests := rest }
  | .free :: _ => serveFree s

end Sys2Proof.Machine
end

