-- ==== Sys2Proof/Machine/Step.lean ====
section
/-! DEFINITION. One step of the machine: one operation of the block (R11), served to completion (R36). -/

namespace Sys2Proof.Machine

/-- The next operation: the host's next request, a Step when none is listed. -/
def step (s : State) : Host.Outcome State Fault Refusal := serve s

/-- `s` with the opcode table's instruction where its next Step fetches, and that Step next. -/
def State.withFetchWord (s : State) (nbits w : Nat) : State := s.placeWord nbits w

end Sys2Proof.Machine
end

