-- ==== Sys2Proof/Safety.lean ====
section
/-! DEFINITION. The terms claims are stated in: the invariant of reachable states, clean runs, equality of the block's
own state. -/

namespace Sys2Proof.Machine

/-- What holds in every reachable state: memory in canonical form, `I` at most 0x0FFF (R24), `pc` at most 0x10FE (R26),
return addresses at most 0x1000 (R26, R27). -/
abbrev State.Inv (s : State) : Prop :=
  s.mem.wf = true ∧ s.i.toNat ≤ 0x0FFF ∧ s.pc.toNat ≤ 0x10FE ∧ ∀ a ∈ s.stack, a.toNat ≤ 0x1000

/-- No report recorded since Reset (R260 a). -/
abbrev State.Clean (s : State) : Prop := s.reported = []

/-- The two states have the same block state, every element of R20. -/
abbrev State.SameBlock (s t : State) : Prop :=
  s.v = t.v ∧ s.i = t.i ∧ s.pc = t.pc ∧ s.stack = t.stack ∧ s.disp = t.disp ∧ s.dt = t.dt ∧ s.st = t.st ∧
  s.quirks = t.quirks ∧ s.halted = t.halted ∧ s.mem = t.mem

/-- The next operation is a Step, which samples `k` and `r` and leaves the host's requests and the count of free inputs
as in `u`; nothing else of `u` differs from `s`. -/
abbrev State.NextIsStep (s : State) (k : BitVec 16) (r : Byte) (u : State) : Prop :=
  (∃ rest, s.requests = .step k r :: rest ∧ u = { s with requests := rest }) ∨
  ((s.requests = [] ∨ (∃ rest, s.requests = .free :: rest) ∧ Config.freeTick s.drawn = false) ∧
    k = Config.freeKeys s.drawn ∧ r = Config.freeRnd s.drawn ∧ u = { s with drawn := s.drawn + 1 })

/-! ### Infinite runs (R257) -/

/-- An infinite word over Step and Tick, with the inputs of each Step. -/
abbrev IsHostWord (ops : Nat → Request) : Prop := ∀ n, ops n = .tick ∨ (ops n).isStep = true

/-- `σ` is the run of the machine under the word `ops`: the host asks for `ops n` in the state `σ n`. -/
abbrev IsRun (ops : Nat → Request) (σ : Nat → State) : Prop :=
  ∀ n, step { σ n with requests := [ops n] } = .next (σ (n + 1))

/-- Tick fairness, R257's assumption (a): Ticks without end. A claim that rests on it names it. -/
abbrev TickFair (ops : Nat → Request) : Prop := ∀ n, ∃ m, n ≤ m ∧ ops m = .tick

/-- Step fairness, R257's assumption (b): Steps without end. A claim that rests on it names it. -/
abbrev StepFair (ops : Nat → Request) : Prop := ∀ n, ∃ m, n ≤ m ∧ (ops m).isStep = true

/-- The two bytes at `pc`, in the order of their addresses (R57, R81). -/
def State.fetchBytes (s : State) : List Byte := [s.readByte s.pc.toNat, s.readByte (s.pc.toNat + 1)]

/-- The sprite bit that falls on the display cell in row `r`, column `c`, for a sprite of `n` rows at address `i` drawn at
column `x0`, row `y0`: bit `7 - (c - x0)` of the byte at `i + (r - y0)`, and 0 outside the sprite (R181, R182). -/
def spriteBit (m : Memory) (i x0 y0 n r c : Nat) : Bool :=
  decide (y0 ≤ r ∧ r < y0 + n ∧ x0 ≤ c ∧ c < x0 + 8) && (m.read (i + (r - y0))).getLsbD (7 - (c - x0))

/-- A next state changed by `f`, a stop left as it is: for claims that compare two runs up to some fields. -/
def mapNext (f : State → State) : Host.Outcome State Fault Refusal → Host.Outcome State Fault Refusal
  | .next t => .next (f t)
  | .fault e => .fault e
  | .refused e => .refused e

/-! ### Which instruction writes which element (the table of R20) -/

/-- The instructions that write a general register. -/
def writesV : Instr → Bool
  | .ldImm _ _ | .addImm _ _ | .ldReg _ _ | .or _ _ | .and _ _ | .xor _ _ | .addReg _ _ | .sub _ _ | .shr _ _
  | .subn _ _ | .shl _ _ | .rnd _ _ | .drw _ _ _ | .ldVxDt _ | .ldVxK _ | .addI _ | .ldRegs _ => true
  | _ => false

/-- The instructions that write `V[15]` as a flag (R22). -/
def writesFlag : Instr → Bool
  | .addReg _ _ | .sub _ _ | .shr _ _ | .subn _ _ | .shl _ _ | .addI _ | .drw _ _ _ => true
  | _ => false

/-- The instructions that write `I`. -/
def writesI : Instr → Bool
  | .ldI _ | .addI _ | .ldF _ | .stRegs _ | .ldRegs _ => true
  | _ => false

/-- The instructions that push or pop the call stack. -/
def writesStack : Instr → Bool
  | .call _ | .ret => true
  | _ => false

/-- The instructions that write display cells. -/
def writesDisp : Instr → Bool
  | .cls | .drw _ _ _ => true
  | _ => false

/-- The instructions that can set `halted`. -/
def writesHalted : Instr → Bool
  | .jp _ | .jpV0 _ => true
  | _ => false

/-- The instructions that write memory. -/
def writesMem : Instr → Bool
  | .ldB _ | .stRegs _ => true
  | _ => false

/-- The instructions that read the key-state input (R34, R224). -/
def readsKeys : Instr → Bool
  | .skp _ | .sknp _ | .ldVxK _ => true
  | _ => false

/-- The instruction that reads the random byte (R34, R225). -/
def readsRnd : Instr → Bool
  | .rnd _ _ => true
  | _ => false

end Sys2Proof.Machine
end

