-- ==== Sys2Proof/Certificates/Slice0/Obligations.lean ====
section
/-! DEFINITION. The statements about the machine. In a statement about `exec`, the state is the one R85 leaves after
line 4: its `pc` is the advanced pc, the instruction's address plus 2, and `keys` and `rnd` are the Step's samples. -/

open Sys2Proof Sys2Proof.Machine

/-! ### Encoding -/

/-- Decoding the bytes of any instruction, at every operand value, gives it back with the bytes after it
(30_encoding.md R80 to R83). The places of the fields are decision D7 (log entry 24); that the nibble 5XY_ and 9XY_ ignore is
kept as an operand is the model's (log entry 18). -/
def Obligations.DecodeEncodeRoundTrip : Prop :=
  ∀ (i : Instr) (rest : List Byte), decode (encodeBytes i ++ rest) = .instr i rest

/-- A word that decodes is the word of the instruction it decodes to: no bit is dropped (R82, R83). Log
entries 18 and 24, as above. -/
def Obligations.EncodeDecodeRoundTrip : Prop :=
  ∀ (op : Word) (i : Instr), decodeWord op = some i → encode i = op

/-- The opcode map, row by row (R87): which words select which instruction, with the fields of R82 (decision D7, log entry
24). Rows 7 and 19 take every low nibble (R88, decision D8), which the model keeps as an operand (log entry 18). -/
def Obligations.OpcodeMap : Prop :=
  ∀ op : Word,
    (op &&& 0xFFFF = 0x00E0 → decodeWord op = some .cls) ∧
    (op &&& 0xFFFF = 0x00EE → decodeWord op = some .ret) ∧
    (op &&& 0xF000 = 0x1000 → decodeWord op = some (.jp (op.extractLsb' 0 12))) ∧
    (op &&& 0xF000 = 0x2000 → decodeWord op = some (.call (op.extractLsb' 0 12))) ∧
    (op &&& 0xF000 = 0x3000 → decodeWord op = some (.seImm (op.extractLsb' 8 4) (op.extractLsb' 0 8))) ∧
    (op &&& 0xF000 = 0x4000 → decodeWord op = some (.sneImm (op.extractLsb' 8 4) (op.extractLsb' 0 8))) ∧
    (op &&& 0xF000 = 0x5000 →
      decodeWord op = some (.seReg (op.extractLsb' 8 4) (op.extractLsb' 4 4) (op.extractLsb' 0 4))) ∧
    (op &&& 0xF000 = 0x6000 → decodeWord op = some (.ldImm (op.extractLsb' 8 4) (op.extractLsb' 0 8))) ∧
    (op &&& 0xF000 = 0x7000 → decodeWord op = some (.addImm (op.extractLsb' 8 4) (op.extractLsb' 0 8))) ∧
    (op &&& 0xF00F = 0x8000 → decodeWord op = some (.ldReg (op.extractLsb' 8 4) (op.extractLsb' 4 4))) ∧
    (op &&& 0xF00F = 0x8001 → decodeWord op = some (.or (op.extractLsb' 8 4) (op.extractLsb' 4 4))) ∧
    (op &&& 0xF00F = 0x8002 → decodeWord op = some (.and (op.extractLsb' 8 4) (op.extractLsb' 4 4))) ∧
    (op &&& 0xF00F = 0x8003 → decodeWord op = some (.xor (op.extractLsb' 8 4) (op.extractLsb' 4 4))) ∧
    (op &&& 0xF00F = 0x8004 → decodeWord op = some (.addReg (op.extractLsb' 8 4) (op.extractLsb' 4 4))) ∧
    (op &&& 0xF00F = 0x8005 → decodeWord op = some (.sub (op.extractLsb' 8 4) (op.extractLsb' 4 4))) ∧
    (op &&& 0xF00F = 0x8006 → decodeWord op = some (.shr (op.extractLsb' 8 4) (op.extractLsb' 4 4))) ∧
    (op &&& 0xF00F = 0x8007 → decodeWord op = some (.subn (op.extractLsb' 8 4) (op.extractLsb' 4 4))) ∧
    (op &&& 0xF00F = 0x800E → decodeWord op = some (.shl (op.extractLsb' 8 4) (op.extractLsb' 4 4))) ∧
    (op &&& 0xF000 = 0x9000 →
      decodeWord op = some (.sneReg (op.extractLsb' 8 4) (op.extractLsb' 4 4) (op.extractLsb' 0 4))) ∧
    (op &&& 0xF000 = 0xA000 → decodeWord op = some (.ldI (op.extractLsb' 0 12))) ∧
    (op &&& 0xF000 = 0xB000 → decodeWord op = some (.jpV0 (op.extractLsb' 0 12))) ∧
    (op &&& 0xF000 = 0xC000 → decodeWord op = some (.rnd (op.extractLsb' 8 4) (op.extractLsb' 0 8))) ∧
    (op &&& 0xF000 = 0xD000 →
      decodeWord op = some (.drw (op.extractLsb' 8 4) (op.extractLsb' 4 4) (op.extractLsb' 0 4))) ∧
    (op &&& 0xF0FF = 0xE09E → decodeWord op = some (.skp (op.extractLsb' 8 4))) ∧
    (op &&& 0xF0FF = 0xE0A1 → decodeWord op = some (.sknp (op.extractLsb' 8 4))) ∧
    (op &&& 0xF0FF = 0xF007 → decodeWord op = some (.ldVxDt (op.extractLsb' 8 4))) ∧
    (op &&& 0xF0FF = 0xF00A → decodeWord op = some (.ldVxK (op.extractLsb' 8 4))) ∧
    (op &&& 0xF0FF = 0xF015 → decodeWord op = some (.ldDtVx (op.extractLsb' 8 4))) ∧
    (op &&& 0xF0FF = 0xF018 → decodeWord op = some (.ldStVx (op.extractLsb' 8 4))) ∧
    (op &&& 0xF0FF = 0xF01E → decodeWord op = some (.addI (op.extractLsb' 8 4))) ∧
    (op &&& 0xF0FF = 0xF029 → decodeWord op = some (.ldF (op.extractLsb' 8 4))) ∧
    (op &&& 0xF0FF = 0xF033 → decodeWord op = some (.ldB (op.extractLsb' 8 4))) ∧
    (op &&& 0xF0FF = 0xF055 → decodeWord op = some (.stRegs (op.extractLsb' 8 4))) ∧
    (op &&& 0xF0FF = 0xF065 → decodeWord op = some (.ldRegs (op.extractLsb' 8 4)))

/-- No word is accepted by two rows of the opcode map (R94). -/
def Obligations.OpcodeRowsNeverOverlap : Prop :=
  ∀ op : Word, (opcodeRows.filter (fun r => r.accepts op)).length ≤ 1

/-- The unmatched words are exactly those of R89's table (sub-dispatch keys by decision D8, log entry 24). -/
def Obligations.UnmatchedWordsExactly : Prop :=
  ∀ op : Word, decodeWord op = none ↔
    (op.toNat / 4096 = 0x0 ∧ op.toNat % 4096 ≠ 0x0E0 ∧ op.toNat % 4096 ≠ 0x0EE) ∨
    (op.toNat / 4096 = 0x8 ∧ op.toNat % 16 ∈ [0x8, 0x9, 0xA, 0xB, 0xC, 0xD, 0xF]) ∨
    (op.toNat / 4096 = 0xE ∧ op.toNat % 256 ≠ 0x9E ∧ op.toNat % 256 ≠ 0xA1) ∨
    (op.toNat / 4096 = 0xF ∧ op.toNat % 256 ∉ [0x07, 0x0A, 0x15, 0x18, 0x1E, 0x29, 0x33, 0x55, 0x65])

/-- Words the spec writes out, and what they stand for (examples of R111, R112, R115, R117, R131, R140, R161, R165, R181,
R190, R191; 95_test_vectors.md UM4, UM7, UM8). Fields by decision D7 (log entry 24). That E10E and F175 are unmatched is the dispatch on the whole low byte, decision D8 (log entry 24); that
512F is SE V1, V2 is R88, decision D8 too, its nibble kept by the model (log entry 18). -/
def Obligations.SpecWordsDecode : Prop :=
  decodeWord 0x120C = some (.jp 0x20C) ∧ decodeWord 0x2210 = some (.call 0x210) ∧
  decodeWord 0x512F = some (.seReg 1 2 0xF) ∧ decodeWord 0x6A2F = some (.ldImm 10 0x2F) ∧
  decodeWord 0x8126 = some (.shr 1 2) ∧ decodeWord 0xB300 = some (.jpV0 0x300) ∧
  decodeWord 0xC10F = some (.rnd 1 0x0F) ∧ decodeWord 0xD013 = some (.drw 0 1 3) ∧
  decodeWord 0xE29E = some (.skp 2) ∧ decodeWord 0xF11E = some (.addI 1) ∧ decodeWord 0xF265 = some (.ldRegs 2) ∧
  decodeWord 0x8128 = none ∧ decodeWord 0xE10E = none ∧ decodeWord 0xF175 = none

/-- In groups 5 and 9 the low nibble is ignored (R88, decision D8, log entry 18): every form has the effect of the form with 0. -/
def Obligations.IgnoredNibbleHasNoEffect : Prop :=
  ∀ (op : Word) (m : Nibble) (s : State) (i j : Instr),
    (op.extractLsb' 12 4 = 5#4 ∨ op.extractLsb' 12 4 = 9#4) →
    decodeWord op = some i → decodeWord ((op.extractLsb' 4 12 : BitVec 12) ++ m) = some j → exec i s = exec j s

/-! ### The Step and the other operations -/

/-- When the bytes at `pc` decode to an instruction, a Step is that instruction executed on the state with the inputs
sampled, the report output None and pc advanced by 2 (R85). The first clause has the inputs the host's next request
gives; the second has the free inputs (log entry 3); the third is an open-ended host (R257, log entry 2), whose next
operation may be a Tick instead. -/
def Obligations.StepRunsDecodedInstruction : Prop :=
  ∀ (s : State) (i : Instr) (rest : List Byte), s.pc.toNat ≤ 0x0FFE → decode s.fetchBytes = .instr i rest →
    (∀ k r q, s.requests = .step k r :: q →
      step s = exec i { s with pc := s.pc + 2, keys := k, rnd := r, report := .none, requests := q }) ∧
    (s.requests = [] →
      step s = exec i { s with pc := s.pc + 2, keys := Config.freeKeys s.drawn, rnd := Config.freeRnd s.drawn,
                               report := .none, drawn := s.drawn + 1 }) ∧
    (∀ q, s.requests = .free :: q →
      step s = if Config.freeTick s.drawn = true then .next { s.tick with drawn := s.drawn + 1 }
        else exec i { s with pc := s.pc + 2, keys := Config.freeKeys s.drawn, rnd := Config.freeRnd s.drawn,
                             report := .none, drawn := s.drawn + 1 })

/-- The Step, line by line (R85): `u` is `s` with the host's request taken; line 1 samples; line 2 checks the fetch; lines
3 to 5 fetch, advance, and execute the matching row or report the unmatched word. DT and ST change only by FX15, FX18.
The record `reported` is the model's own (log entry 4); standing still at a pc that cannot be fetched is R213 by decision D14
(log entry 17). -/
def Obligations.StepAlgorithm : Prop :=
  ∀ (s u : State) (k : BitVec 16) (r : Byte), s.NextIsStep k r u →
    (0x0FFE < s.pc.toNat → ∃ p : Word, p.toNat = max s.pc.toNat 0x1000 ∧
      step s = .next { u with keys := k, rnd := r, report := .outOfBoundsAddress p,
                              reported := .outOfBoundsAddress p :: s.reported }) ∧
    (s.pc.toNat ≤ 0x0FFE → ∀ op : Word, op = s.mem.read s.pc.toNat ++ s.mem.read (s.pc.toNat + 1) →
      (decodeWord op = none →
        step s = .next { u with pc := s.pc + 2, keys := k, rnd := r, report := .unmatchedOpcode op,
                                reported := .unmatchedOpcode op :: s.reported }) ∧
      (∀ i, decodeWord op = some i →
        step s = exec i { u with pc := s.pc + 2, keys := k, rnd := r, report := .none } ∧
        ∀ t, step s = .next t →
          (t.dt ≠ s.dt → ∃ x, i = .ldDtVx x) ∧ (t.st ≠ s.st → ∃ x, i = .ldStVx x)))

/-- An unmatched word is a no-op that reports itself (R214). -/
def Obligations.UnmatchedWordIsReportedNoop : Prop :=
  ∀ (s u : State) (k : BitVec 16) (r : Byte) (op : Word), s.NextIsStep k r u → s.pc.toNat ≤ 0x0FFE →
    op = s.mem.read s.pc.toNat ++ s.mem.read (s.pc.toNat + 1) → decodeWord op = none →
    ∃ t, step s = .next t ∧ t.report = .unmatchedOpcode op ∧ t.pc = s.pc + 2 ∧ State.SameBlock { t with pc := s.pc } s

/-- A fetch out of range changes no element of the block's state and reports the lowest address outside (R213, decision
D14, log entry 17), and the machine stands there at every later Step; where the host asks for Ticks too, as an open-ended
host may, they still count the timers down and change nothing else. -/
def Obligations.FetchOutOfRangeStandsStill : Prop :=
  (∀ (s u : State) (k : BitVec 16) (r : Byte), s.NextIsStep k r u → 0x0FFE < s.pc.toNat →
    ∃ t p, step s = .next t ∧ t.SameBlock s ∧ t.report = .outOfBoundsAddress p ∧ p.toNat = max s.pc.toNat 0x1000) ∧
  (∀ (s : State) (n : Nat), 0x0FFE < s.pc.toNat → (∀ q ∈ s.requests, q.isStep = true) →
    ∃ t, Sys2Proof.core.run n s = .next t ∧ State.SameBlock t s) ∧
  (∀ (s : State) (n : Nat), 0x0FFE < s.pc.toNat → (∀ inp, .reset inp ∉ s.requests) →
    ∃ t, Sys2Proof.core.run n s = .next t ∧ State.SameBlock { t with dt := s.dt, st := s.st } s)

/-- Nothing stops the machine (R218): whatever the state, a Step request gives a next state, and so does every
instruction. -/
def Obligations.NothingStopsTheMachine : Prop :=
  (∀ (s u : State) (k : BitVec 16) (r : Byte), s.NextIsStep k r u → ∃ t, step s = .next t) ∧
  (∀ (i : Instr) (s : State), ∃ t, exec i s = .next t)

/-- A Step raises at most one report, and its output is that report (R215, R210; the record is log entry 4). -/
def Obligations.AtMostOneReportPerStep : Prop :=
  ∀ (s u t : State) (k : BitVec 16) (r : Byte), s.NextIsStep k r u → step s = .next t →
    (t.report = .none ∧ t.reported = s.reported) ∨ (t.report ≠ .none ∧ t.reported = t.report :: s.reported)

/-- The program cannot observe that a report was raised (R216): two states that differ in reports only behave alike. -/
def Obligations.ReportsAreUnobservable : Prop :=
  ∀ (s : State) (r : Report) (l : List Report),
    mapNext (fun t => { t with report := .none, reported := [] }) (step { s with report := r, reported := l }) =
      mapNext (fun t => { t with report := .none, reported := [] }) (step s)

/-- Nothing reads `halted` (R31): a step behaves the same whatever the bit holds. -/
def Obligations.HaltedIsUnread : Prop :=
  ∀ (s : State) (b : Bool),
    mapNext (fun t => { t with halted := false }) (step { s with halted := b }) =
      mapNext (fun t => { t with halted := false }) (step s)

/-- `halted` is never cleared but by Reset (R31). -/
def Obligations.HaltedIsSticky : Prop :=
  ∀ s t : State, step s = .next t → s.halted = true → (∀ inp, s.requests.head? ≠ some (.reset inp)) → t.halted = true

/-- Each element of the state is written only by the instructions R20's table names; the quirk bits by none (R30). -/
def Obligations.InstructionsWriteOnlyTheirState : Prop :=
  ∀ (i : Instr) (s t : State), exec i s = .next t →
    (writesV i = false → t.v = s.v) ∧ (writesI i = false → t.i = s.i) ∧ (writesStack i = false → t.stack = s.stack) ∧
    (writesDisp i = false → t.disp = s.disp) ∧ ((∀ x, i ≠ .ldDtVx x) → t.dt = s.dt) ∧
    ((∀ x, i ≠ .ldStVx x) → t.st = s.st) ∧ t.quirks = s.quirks ∧
    (writesHalted i = false → t.halted = s.halted) ∧ (s.halted = true → t.halted = true) ∧
    (writesMem i = false → t.mem = s.mem) ∧ t.keys = s.keys ∧ t.rnd = s.rnd ∧ t.requests = s.requests ∧
    t.drawn = s.drawn

/-- Only EX9E, EXA1 and FX0A use the key sample, only CXNN the random byte (R34). -/
def Obligations.InputsReadOnlyByTheirInstructions : Prop :=
  ∀ (i : Instr) (s : State),
    (readsKeys i = false → ∀ k, mapNext (fun t => { t with keys := 0 }) (exec i { s with keys := k }) =
      mapNext (fun t => { t with keys := 0 }) (exec i s)) ∧
    (readsRnd i = false → ∀ r, mapNext (fun t => { t with rnd := 0 }) (exec i { s with rnd := r }) =
      mapNext (fun t => { t with rnd := 0 }) (exec i s))

/-- No instruction reads `ST` (R193, R196): what it does is the same whatever the sound timer holds. -/
def Obligations.SoundTimerIsUnread : Prop :=
  ∀ (i : Instr) (s : State) (b : Byte),
    mapNext (fun t => { t with st := 0 }) (exec i { s with st := b }) = mapNext (fun t => { t with st := 0 }) (exec i s)

/-- The quirk bits change only at Reset (R30, R253). -/
def Obligations.QuirksChangeOnlyAtReset : Prop :=
  ∀ s t : State, step s = .next t → (∀ inp, s.requests.head? ≠ some (.reset inp)) → t.quirks = s.quirks

/-- V[15] as the flag (R22): each flag-writing instruction leaves 0 or 1 in it, except a DXYN that reports; no other
instruction changes it but as its destination register. That 8XY4 to 8XY7 and 8XYE do so with X = 15 too is R130's write
order, decision D9 (log entry 11); that DXYN does with N = 0 is decision D12 (log entry 25). -/
def Obligations.FlagRegisterIsAlwaysWritten : Prop :=
  ∀ (i : Instr) (s t : State), exec i s = .next t →
    (writesFlag i = true → t.reported = s.reported → t.readV 15 = 0 ∨ t.readV 15 = 1) ∧
    (writesFlag i = true → (∀ x y n, i ≠ .drw x y n) → t.reported = s.reported) ∧
    (writesFlag i = false → t.readV 15 ≠ s.readV 15 →
      (∃ nn, i = .ldImm 15 nn ∨ i = .addImm 15 nn ∨ i = .rnd 15 nn) ∨
      (∃ y, i = .ldReg 15 y ∨ i = .or 15 y ∨ i = .and 15 y ∨ i = .xor 15 y) ∨
      i = .ldVxDt 15 ∨ i = .ldVxK 15 ∨ i = .ldRegs 15)

/-- Tick (R221): both timers count down on their own, never below 0, and nothing else of the block changes; a value n is 0
after exactly n Ticks and stays there. The request list is log entry 2; that the report output stays is log entry 23. -/
def Obligations.TickCountsDown : Prop :=
  (∀ (s : State) (q : List Request), s.requests = .tick :: q →
    ∃ t, step s = .next t ∧ t = { s with dt := t.dt, st := t.st, requests := q } ∧
      t.dt.toNat = s.dt.toNat - 1 ∧ t.st.toNat = s.st.toNat - 1) ∧
  (∀ (s : State) (n : Nat), (State.tick^[n] s).dt.toNat = s.dt.toNat - n ∧ (State.tick^[n] s).st.toNat = s.st.toNat - n)

/-- FX15 then Tick leaves V[X] - 1 (or 0), Tick then FX15 leaves V[X] (R256). -/
def Obligations.TimerWriteAndTickOrder : Prop :=
  ∀ (x : Nibble) (s : State),
    (∃ t, exec (.ldDtVx x) s = .next t ∧ t.tick.dt.toNat = (s.readV x).toNat - 1) ∧
    (∃ t, exec (.ldDtVx x) s.tick = .next t ∧ t.dt = s.readV x)

/-- Reset (R250, R262): what every element holds afterwards. The zeros of V, I and `halted` are decisions D3 and D18 of the
spec (log entry 9); the model's own fields are log entry 22. -/
def Obligations.ResetLeavesTheResetState : Prop :=
  ∀ (s : State) (inp : ResetInputs) (q : List Request), s.requests = .reset inp :: q → inp.program.length ≤ 3584 →
    ∃ t, step s = .next t ∧ (∀ x, t.readV x = 0) ∧ t.i = 0 ∧ t.pc = 0x200 ∧ t.stack = [] ∧
      (∀ r c, t.disp.cell r c = false) ∧ t.dt = 0 ∧ t.st = 0 ∧
      t.quirks.shiftIgnoresVy = inp.quirks.getLsbD 0 ∧ t.quirks.noIndexIncrement = inp.quirks.getLsbD 1 ∧
      t.quirks.jumpUsesVx = inp.quirks.getLsbD 2 ∧ t.halted = false ∧ t.reported = [] ∧ t.report = .none ∧
      t.mem.wf = true ∧ t.requests = q ∧ t.drawn = s.drawn

/-- The memory after Reset (R52, R53, R54): the program from 0x200, the font argument at 0x050 to 0x09F, 0x00 elsewhere
(fill by decision D4, log entry 8). -/
def Obligations.ResetMemoryImage : Prop :=
  ∀ (s : State) (inp : ResetInputs) (q : List Request), s.requests = .reset inp :: q → inp.program.length ≤ 3584 →
    ∃ t, step s = .next t ∧
      (∀ j (h : j < inp.program.length), t.mem.read (0x200 + j) = inp.program[j]) ∧
      (∀ j (h : j < 80), t.mem.read (0x050 + j) = inp.font[j]) ∧
      (∀ a, a < 0x050 ∨ (0x0A0 ≤ a ∧ a < 0x200) ∨ 0x200 + inp.program.length ≤ a → t.mem.read a = 0)

/-- Reset with a program longer than 3584 bytes is refused (R54, decision D4, log entry 15). -/
def Obligations.ResetRefusesLongProgram : Prop :=
  ∀ (s : State) (inp : ResetInputs) (q : List Request), s.requests = .reset inp :: q → 3584 < inp.program.length →
    step s = .refused (.programTooLong inp.program.length)

/-- The state right after Reset, as the model's interface gives it (R262): log entries 5 to 9 say which values are the
model's or the spec's own choice. -/
def Obligations.ResetStateValues : Prop :=
  (∀ x, State.reset.readV x = 0) ∧ State.reset.i = 0 ∧ State.reset.pc = 0x200 ∧ State.reset.stack = [] ∧
  (∀ r c, State.reset.disp.cell r c = false) ∧ State.reset.dt = 0 ∧ State.reset.st = 0 ∧ State.reset.halted = false ∧
  State.reset.Clean ∧ (∀ a, a < 0x050 ∨ 0x0A0 ≤ a → State.reset.mem.read a = 0)

/-- The invariant of reachable states holds at reset (R24, R26). -/
def Obligations.ResetMeetsInvariant : Prop := State.reset.Inv

/-- Every step keeps the invariant (R24, R26, and memory's canonical form): from every state that meets it. -/
def Obligations.StepKeepsInvariant : Prop :=
  ∀ s t : State, s.Inv → step s = .next t → t.Inv

/-- A store is seen by the next fetch (R66): after FX55 with X at least 1, the word at `I` is `V[0] ++ V[1]`. -/
def Obligations.StoreIsSeenByNextFetch : Prop :=
  ∀ (x : Nibble) (s : State), s.mem.wf = true → x ≠ 0 → s.i.toNat + x.toNat ≤ 0xFFF →
    ∃ t, exec (.stRegs x) s = .next t ∧ State.fetchWord { t with pc := s.i } = s.readV 0 ++ s.readV 1

/-! ### Control flow -/

/-- 00EE (R110): pops pc; on the empty stack reports and keeps the advanced pc (decision D17, log entry 25). -/
def Obligations.ReturnPopsOrReports : Prop :=
  (∀ (s : State) (a : Word) (rest : List Word), s.stack = a :: rest →
    exec .ret s = .next { s with pc := a, stack := rest }) ∧
  (∀ s : State, s.stack = [] →
    exec .ret s = .next { s with report := .stackUnderflow, reported := .stackUnderflow :: s.reported })

/-- 1NNN (R111): pc takes NNN; `halted` is set when NNN is the instruction's own address `a` (decision D18). -/
def Obligations.JumpSetsPcAndSelfLoopFlag : Prop :=
  ∀ (nnn : Addr) (s : State) (a : Word), s.pc = a + 2 →
    ∃ t, exec (.jp nnn) s = .next t ∧ t = { s with pc := t.pc, halted := t.halted } ∧ t.pc.toNat = nnn.toNat ∧
      (t.halted = true ↔ s.halted = true ∨ nnn.toNat = a.toNat)

/-- 2NNN (R112): pushes the advanced pc, pc takes NNN, `halted` is not touched. -/
def Obligations.CallPushesAdvancedPc : Prop :=
  ∀ (nnn : Addr) (s : State),
    ∃ t, exec (.call nnn) s = .next t ∧ t = { s with pc := t.pc, stack := s.pc :: s.stack } ∧ t.pc.toNat = nnn.toNat

/-- A call and a later return on the stack it left come back to the instruction after the call (95 S5, R110, R112). -/
def Obligations.CallThenReturnRestoresPc : Prop :=
  ∀ (nnn : Addr) (s t u : State), exec (.call nnn) s = .next t → u.stack = t.stack →
    ∃ w, exec .ret u = .next w ∧ w.pc = s.pc ∧ w.stack = s.stack ∧ w.reported = u.reported

/-- 3XNN and 4XNN (R113, R114): encoding, and the skip over two more bytes; nothing else changes. -/
def Obligations.ImmediateSkips : Prop :=
  (∀ op : Word, op.extractLsb' 12 4 = 3#4 → decodeWord op = some (.seImm (op.extractLsb' 8 4) (op.extractLsb' 0 8))) ∧
  (∀ op : Word, op.extractLsb' 12 4 = 4#4 → decodeWord op = some (.sneImm (op.extractLsb' 8 4) (op.extractLsb' 0 8))) ∧
  (∀ (x : Nibble) (nn : Byte) (s : State),
    exec (.seImm x nn) s = .next { s with pc := if s.readV x = nn then s.pc + 2 else s.pc } ∧
    exec (.sneImm x nn) s = .next { s with pc := if s.readV x ≠ nn then s.pc + 2 else s.pc })

/-- 5XY_ and 9XY_ (R115, R116), whatever the ignored nibble (R88, decision D8, log entry 18). -/
def Obligations.RegisterSkips : Prop :=
  ∀ (x y n : Nibble) (s : State),
    exec (.seReg x y n) s = .next { s with pc := if s.readV x = s.readV y then s.pc + 2 else s.pc } ∧
    exec (.sneReg x y n) s = .next { s with pc := if s.readV x ≠ s.readV y then s.pc + 2 else s.pc }

/-- BNNN (R117): encoding; the offset register chosen by the quirk bit; the sum not masked; `halted` on a self-loop. -/
def Obligations.JumpTable : Prop :=
  (∀ op : Word, op.extractLsb' 12 4 = 0xB#4 → decodeWord op = some (.jpV0 (op.extractLsb' 0 12))) ∧
  (∀ (nnn : Addr) (s : State) (a : Word) (off : Byte), s.pc = a + 2 →
    off = (if s.quirks.jumpUsesVx = true then s.readV (nnn.extractLsb' 8 4) else s.readV 0) →
    ∃ t, exec (.jpV0 nnn) s = .next t ∧ t = { s with pc := t.pc, halted := t.halted } ∧
      t.pc.toNat = nnn.toNat + off.toNat ∧ (t.halted = true ↔ s.halted = true ∨ nnn.toNat + off.toNat = a.toNat))

/-! ### Loads, arithmetic, logic, shifts -/

/-- 6XNN, 7XNN, 8XY0 (R131, R132, R133): encoding, the new value of V[X], no flag, nothing else changes. -/
def Obligations.LoadAndAddImmediate : Prop :=
  (∀ op : Word, op.extractLsb' 12 4 = 6#4 → decodeWord op = some (.ldImm (op.extractLsb' 8 4) (op.extractLsb' 0 8))) ∧
  (∀ op : Word, op.extractLsb' 12 4 = 7#4 → decodeWord op = some (.addImm (op.extractLsb' 8 4) (op.extractLsb' 0 8))) ∧
  (∀ op : Word, op.extractLsb' 12 4 = 8#4 → op.extractLsb' 0 4 = 0#4 →
    decodeWord op = some (.ldReg (op.extractLsb' 8 4) (op.extractLsb' 4 4))) ∧
  (∀ (x : Nibble) (nn : Byte) (s : State),
    (∃ t, exec (.ldImm x nn) s = .next t ∧ t = { s with v := t.v } ∧ t.readV x = nn ∧
      ∀ r, r ≠ x → t.readV r = s.readV r) ∧
    (∃ t, exec (.addImm x nn) s = .next t ∧ t = { s with v := t.v } ∧
      (t.readV x).toNat = ((s.readV x).toNat + nn.toNat) % 256 ∧ ∀ r, r ≠ x → t.readV r = s.readV r)) ∧
  (∀ (x y : Nibble) (s : State),
    ∃ t, exec (.ldReg x y) s = .next t ∧ t = { s with v := t.v } ∧ t.readV x = s.readV y ∧
      ∀ r, r ≠ x → t.readV r = s.readV r)

/-- 8XY1, 8XY2, 8XY3 (R134, R135, R136): encoding, bitwise result, V[15] untouched unless X = 15, nothing else changes. -/
def Obligations.BitwiseLogic : Prop :=
  (∀ op : Word, op.extractLsb' 12 4 = 8#4 →
    (op.extractLsb' 0 4 = 1#4 → decodeWord op = some (.or (op.extractLsb' 8 4) (op.extractLsb' 4 4))) ∧
    (op.extractLsb' 0 4 = 2#4 → decodeWord op = some (.and (op.extractLsb' 8 4) (op.extractLsb' 4 4))) ∧
    (op.extractLsb' 0 4 = 3#4 → decodeWord op = some (.xor (op.extractLsb' 8 4) (op.extractLsb' 4 4)))) ∧
  (∀ (x y : Nibble) (s : State),
    (∃ t, exec (.or x y) s = .next t ∧ t = { s with v := t.v } ∧
      (∀ j, (t.readV x).getLsbD j = ((s.readV x).getLsbD j || (s.readV y).getLsbD j)) ∧
      ∀ r, r ≠ x → t.readV r = s.readV r) ∧
    (∃ t, exec (.and x y) s = .next t ∧ t = { s with v := t.v } ∧
      (∀ j, (t.readV x).getLsbD j = ((s.readV x).getLsbD j && (s.readV y).getLsbD j)) ∧
      ∀ r, r ≠ x → t.readV r = s.readV r) ∧
    (∃ t, exec (.xor x y) s = .next t ∧ t = { s with v := t.v } ∧
      (∀ j, (t.readV x).getLsbD j = ((s.readV x).getLsbD j ^^ (s.readV y).getLsbD j)) ∧
      ∀ r, r ≠ x → t.readV r = s.readV r))

/-- 8XY4 (R137, 95 S1): sum modulo 256 and carry; with X = 15 the carry stays (R130, decision D9, log entry 11). -/
def Obligations.AddWithCarryOut : Prop :=
  ∀ (x y : Nibble) (s : State) (a b : Nat), a = (s.readV x).toNat → b = (s.readV y).toNat →
    ∃ t, exec (.addReg x y) s = .next t ∧ t = { s with v := t.v } ∧
      t.readV 15 = (if a + b > 255 then 1 else 0) ∧ (x ≠ 15 → (t.readV x).toNat = (a + b) % 256) ∧
      ∀ r, r ≠ x → r ≠ 15 → t.readV r = s.readV r

/-- 8XY5 (R138, 95 S2): V[X] - V[Y] modulo 256 and not-borrow; with X = 15 the flag stays (R130, decision D9, log
entry 11). -/
def Obligations.SubtractWithNotBorrow : Prop :=
  ∀ (x y : Nibble) (s : State) (a b : Nat), a = (s.readV x).toNat → b = (s.readV y).toNat →
    ∃ t, exec (.sub x y) s = .next t ∧ t = { s with v := t.v } ∧
      t.readV 15 = (if a ≥ b then 1 else 0) ∧ (x ≠ 15 → (t.readV x).toNat = (a + 256 - b) % 256) ∧
      ∀ r, r ≠ x → r ≠ 15 → t.readV r = s.readV r

/-- 8XY7 (R139): V[Y] - V[X] modulo 256 and not-borrow; with X = 15 the flag stays (R130, decision D9, log entry 11). -/
def Obligations.ReverseSubtractWithNotBorrow : Prop :=
  ∀ (x y : Nibble) (s : State) (a b : Nat), a = (s.readV x).toNat → b = (s.readV y).toNat →
    ∃ t, exec (.subn x y) s = .next t ∧ t = { s with v := t.v } ∧
      t.readV 15 = (if b ≥ a then 1 else 0) ∧ (x ≠ 15 → (t.readV x).toNat = (b + 256 - a) % 256) ∧
      ∀ r, r ≠ x → r ≠ 15 → t.readV r = s.readV r

/-- 8XY6 (R140): the source by the quirk bit (decision D10, log entry 12), shifted right by one, its bit 0 in V[15];
with X = 15 the flag stays (R130, decision D9, log entry 11). -/
def Obligations.ShiftRightByOne : Prop :=
  ∀ (x y : Nibble) (s : State) (src : Nat),
    src = (if s.quirks.shiftIgnoresVy = true then s.readV x else s.readV y).toNat →
    ∃ t, exec (.shr x y) s = .next t ∧ t = { s with v := t.v } ∧ (t.readV 15).toNat = src % 2 ∧
      (x ≠ 15 → (t.readV x).toNat = src / 2) ∧ ∀ r, r ≠ x → r ≠ 15 → t.readV r = s.readV r

/-- 8XYE (R141): the source by the quirk bit (decision D10, log entry 12), shifted left by one, its bit 7 in V[15]; with
X = 15 the flag stays (R130, decision D9, log entry 11). -/
def Obligations.ShiftLeftByOne : Prop :=
  ∀ (x y : Nibble) (s : State) (src : Nat),
    src = (if s.quirks.shiftIgnoresVy = true then s.readV x else s.readV y).toNat →
    ∃ t, exec (.shl x y) s = .next t ∧ t = { s with v := t.v } ∧ (t.readV 15).toNat = src / 128 ∧
      (x ≠ 15 → (t.readV x).toNat = 2 * src % 256) ∧ ∀ r, r ≠ x → r ≠ 15 → t.readV r = s.readV r

/-! ### Index register and memory -/

/-- ANNN and FX29 (R160, R162): encoding, the new `I`, nothing else changes. -/
def Obligations.IndexLoads : Prop :=
  (∀ op : Word, op.extractLsb' 12 4 = 0xA#4 → decodeWord op = some (.ldI (op.extractLsb' 0 12))) ∧
  (∀ op : Word, op.extractLsb' 12 4 = 0xF#4 → op.extractLsb' 0 8 = 0x29#8 →
    decodeWord op = some (.ldF (op.extractLsb' 8 4))) ∧
  (∀ (nnn : Addr) (s : State),
    ∃ t, exec (.ldI nnn) s = .next t ∧ t = { s with i := t.i } ∧ t.i.toNat = nnn.toNat) ∧
  (∀ (x : Nibble) (s : State),
    ∃ t, exec (.ldF x) s = .next t ∧ t = { s with i := t.i } ∧ t.i.toNat = 0x050 + 5 * ((s.readV x).toNat % 16))

/-- FX1E (R161): encoding; `I` takes the sum masked to 12 bits, V[15] whether the unmasked sum exceeds 0xFFF, also when
X = 15. -/
def Obligations.IndexAddOverflow : Prop :=
  (∀ op : Word, op.extractLsb' 12 4 = 0xF#4 → op.extractLsb' 0 8 = 0x1E#8 →
    decodeWord op = some (.addI (op.extractLsb' 8 4))) ∧
  (∀ (x : Nibble) (s : State) (sum : Nat), sum = s.i.toNat + (s.readV x).toNat →
    ∃ t, exec (.addI x) s = .next t ∧ t = { s with i := t.i, v := t.v } ∧ t.i.toNat = sum % 4096 ∧
      t.readV 15 = (if sum > 0xFFF then 1 else 0) ∧ ∀ r, r ≠ 15 → t.readV r = s.readV r)

/-- FX33 in range (R163): the three digits at I, I + 1, I + 2, every other byte and everything else unchanged. -/
def Obligations.DecimalDigitsStored : Prop :=
  ∀ (x : Nibble) (s : State), s.mem.wf = true → s.i.toNat + 2 ≤ 0xFFF →
    ∃ t, exec (.ldB x) s = .next t ∧ t = { s with mem := t.mem } ∧
      (t.mem.read s.i.toNat).toNat = (s.readV x).toNat / 100 ∧
      (t.mem.read (s.i.toNat + 1)).toNat = (s.readV x).toNat / 10 % 10 ∧
      (t.mem.read (s.i.toNat + 2)).toNat = (s.readV x).toNat % 10 ∧
      ∀ a, a < s.i.toNat ∨ s.i.toNat + 2 < a → t.mem.read a = s.mem.read a

/-- FX55 in range (R164): V[0] to V[X] at I to I + X, every other byte unchanged; then `I` takes I + X unless the quirk is
on. -/
def Obligations.RegisterBlockStored : Prop :=
  ∀ (x : Nibble) (s : State), s.mem.wf = true → s.i.toNat + x.toNat ≤ 0xFFF →
    ∃ t, exec (.stRegs x) s = .next t ∧ t = { s with mem := t.mem, i := t.i } ∧
      (∀ y : Nibble, y.toNat ≤ x.toNat → t.mem.read (s.i.toNat + y.toNat) = s.readV y) ∧
      (∀ a, a < s.i.toNat ∨ s.i.toNat + x.toNat < a → t.mem.read a = s.mem.read a) ∧
      t.i.toNat = if s.quirks.noIndexIncrement = true then s.i.toNat else s.i.toNat + x.toNat

/-- FX65 in range (R165): V[0] to V[X] take the bytes at I to I + X, the other registers and all of memory are unchanged;
then `I` takes I + X unless the quirk is on. -/
def Obligations.RegisterBlockLoaded : Prop :=
  ∀ (x : Nibble) (s : State), s.i.toNat + x.toNat ≤ 0xFFF →
    ∃ t, exec (.ldRegs x) s = .next t ∧ t = { s with v := t.v, i := t.i } ∧
      (∀ y : Nibble, y.toNat ≤ x.toNat → t.readV y = s.mem.read (s.i.toNat + y.toNat)) ∧
      (∀ y : Nibble, x.toNat < y.toNat → t.readV y = s.readV y) ∧
      t.i.toNat = if s.quirks.noIndexIncrement = true then s.i.toNat else s.i.toNat + x.toNat

/-- FX55 then FX65 from the same starting `I` restores the registers (95 S7, R164, R165). -/
def Obligations.BlockStoreLoadRoundTrip : Prop :=
  ∀ (x : Nibble) (s t u w : State), s.mem.wf = true → s.i.toNat + x.toNat ≤ 0xFFF →
    exec (.stRegs x) s = .next t → u.mem = t.mem → u.i = s.i → exec (.ldRegs x) u = .next w →
    ∀ y : Nibble, y.toNat ≤ x.toNat → w.readV y = s.readV y

/-- Out of range, FX33, FX55, FX65 and DXYN do nothing but report (R166, R212, decision D13; the payload is
`max(I, 0x1000)`, log entry 13). -/
def Obligations.OutOfRangeAccessSkipsInstruction : Prop :=
  ∀ (x y n : Nibble) (s : State), ∃ p : Word, p.toNat = max s.i.toNat 0x1000 ∧
    ∀ t, t = { s with report := .outOfBoundsAddress p, reported := .outOfBoundsAddress p :: s.reported } →
      (0xFFF < s.i.toNat + 2 → exec (.ldB x) s = .next t) ∧
      (0xFFF < s.i.toNat + x.toNat → exec (.stRegs x) s = .next t) ∧
      (0xFFF < s.i.toNat + x.toNat → exec (.ldRegs x) s = .next t) ∧
      (1 ≤ n.toNat → 0xFFF < s.i.toNat + n.toNat - 1 → exec (.drw x y n) s = .next t)

/-! ### Display -/

/-- 00E0 (R180): encoding, every cell 0, nothing else changes. -/
def Obligations.ClearScreen : Prop :=
  (∀ op : Word, op = 0x00E0 → decodeWord op = some .cls) ∧
  (∀ s : State, ∃ t, exec .cls s = .next t ∧ t = { s with disp := t.disp } ∧
    ∀ r c, r < 32 → c < 64 → t.disp.cell r c = false)

/-- DXYN (R181): every cell is exclusive-ORed with the sprite bit on it (bit order by R182, decision D6, log entry 10);
V[15] is 1 exactly when a set bit met a set cell; coordinates are the old V[X], V[Y] also when X or Y is 15 (decision D11,
log entry 11); N = 0 draws nothing (decision D12, log entry 25); nothing else changes. -/
def Obligations.DrawXorsSprite : Prop :=
  ∀ (x y n : Nibble) (s : State) (x0 y0 : Nat), n = 0 ∨ s.i.toNat + n.toNat ≤ 4096 →
    x0 = (s.readV x).toNat % 64 → y0 = (s.readV y).toNat % 32 →
    ∃ t, exec (.drw x y n) s = .next t ∧ t = { s with v := t.v, disp := t.disp } ∧
      (∀ r c, r < 32 → c < 64 →
        t.disp.cell r c = (s.disp.cell r c ^^ spriteBit s.mem s.i.toNat x0 y0 n.toNat r c)) ∧
      (t.readV 15 = 0 ∨ t.readV 15 = 1) ∧
      (t.readV 15 = 1 ↔ ∃ r c, r < 32 ∧ c < 64 ∧ s.disp.cell r c = true ∧
        spriteBit s.mem s.i.toNat x0 y0 n.toNat r c = true) ∧
      ∀ r, r ≠ 15 → t.readV r = s.readV r

/-- The compositor is self-inverse (R183 a, 95 S4): a second draw of the same sprite at the same place restores the display.
It reports a collision exactly when the first draw set a cell: a set sprite bit on a cell that was 0. R183 b, which asks
only for a set sprite bit inside the display, differs where each such bit met a set cell; R181 is followed (log
entry 28). The bit order is decision D6 (log entry 10); coordinates are read before the flag is cleared, and N = 0 draws
nothing (decisions D11, D12, log entries 11 and 25). -/
def Obligations.DrawTwiceRestoresDisplay : Prop :=
  ∀ (x y n : Nibble) (s t u w : State), exec (.drw x y n) s = .next t →
    u.disp = t.disp → u.mem = s.mem → u.i = s.i → u.readV x = s.readV x → u.readV y = s.readV y →
    exec (.drw x y n) u = .next w →
    w.disp = s.disp ∧
    (n = 0 ∨ s.i.toNat + n.toNat ≤ 4096 →
      (w.readV 15 = 1 ↔ ∃ r c, r < 32 ∧ c < 64 ∧ s.disp.cell r c = false ∧
        spriteBit s.mem s.i.toNat ((s.readV x).toNat % 64) ((s.readV y).toNat % 32) n.toNat r c = true))

/-! ### Random, keypad, timers -/

/-- CXNN (R190): encoding; V[X] takes the sampled random byte AND NN, for every byte the host may supply; nothing else
changes. -/
def Obligations.RandomByteMasked : Prop :=
  (∀ op : Word, op.extractLsb' 12 4 = 0xC#4 → decodeWord op = some (.rnd (op.extractLsb' 8 4) (op.extractLsb' 0 8))) ∧
  (∀ (x : Nibble) (nn : Byte) (s : State),
    ∃ t, exec (.rnd x nn) s = .next t ∧ t = { s with v := t.v } ∧
      (∀ j, (t.readV x).getLsbD j = (s.rnd.getLsbD j && nn.getLsbD j)) ∧ ∀ r, r ≠ x → t.readV r = s.readV r)

/-- EX9E and EXA1 (R191, R192): exactly one of them skips; a key number of 16 or more is not held (decision D15, log entry
16). -/
def Obligations.KeySkips : Prop :=
  ∀ (x : Nibble) (s : State) (k : Nat), k = (s.readV x).toNat →
    exec (.skp x) s = .next { s with pc := if k < 16 ∧ s.keys.toNat.testBit k = true then s.pc + 2 else s.pc } ∧
    exec (.sknp x) s = .next { s with pc := if k < 16 ∧ s.keys.toNat.testBit k = true then s.pc else s.pc + 2 }

/-- FX07, FX15, FX18 (R193, R195, R196): encoding, the move, nothing else changes. -/
def Obligations.TimerMoves : Prop :=
  (∀ op : Word, op.extractLsb' 12 4 = 0xF#4 →
    (op.extractLsb' 0 8 = 0x07#8 → decodeWord op = some (.ldVxDt (op.extractLsb' 8 4))) ∧
    (op.extractLsb' 0 8 = 0x15#8 → decodeWord op = some (.ldDtVx (op.extractLsb' 8 4))) ∧
    (op.extractLsb' 0 8 = 0x18#8 → decodeWord op = some (.ldStVx (op.extractLsb' 8 4)))) ∧
  (∀ (x : Nibble) (s : State),
    (∃ t, exec (.ldVxDt x) s = .next t ∧ t = { s with v := t.v } ∧ t.readV x = s.dt ∧
      ∀ r, r ≠ x → t.readV r = s.readV r) ∧
    exec (.ldDtVx x) s = .next { s with dt := s.readV x } ∧
    exec (.ldStVx x) s = .next { s with st := s.readV x })

/-- FX0A (R194): encoding; with no key held pc goes back by 2 and nothing else changes; else V[X] takes the least held
key's number, and pc keeps the advanced value. -/
def Obligations.WaitForKey : Prop :=
  (∀ op : Word, op.extractLsb' 12 4 = 0xF#4 → op.extractLsb' 0 8 = 0x0A#8 →
    decodeWord op = some (.ldVxK (op.extractLsb' 8 4))) ∧
  (∀ (x : Nibble) (s : State),
    (s.keys = 0 → exec (.ldVxK x) s = .next { s with pc := s.pc - 2 }) ∧
    (s.keys ≠ 0 → ∃ t k, exec (.ldVxK x) s = .next t ∧ t = { s with v := t.v } ∧ k < 16 ∧
      s.keys.getLsbD k = true ∧ (∀ j, j < k → s.keys.getLsbD j = false) ∧ (t.readV x).toNat = k ∧
      ∀ r, r ≠ x → t.readV r = s.readV r))

/-! ### Infinite runs -/

/-- Any infinite word over Step and Tick, with any inputs, is a run from any state (R257, R261); and the runs of an
open-ended host are the runs under the word of its free operations, so what holds under every word holds of them (log
entries 2 and 3). -/
def Obligations.EveryHostWordIsARun : Prop :=
  (∀ (ops : Nat → Request) (s : State), IsHostWord ops → ∃ σ : Nat → State, σ 0 = s ∧ IsRun ops σ) ∧
  (∀ (s : State) (q : List Request) (σ : Nat → State), s.requests = .free :: q → σ 0 = s →
    IsRun (fun m => freeOperation (s.drawn + m)) σ →
    ∀ n, Sys2Proof.core.run n s = .next { σ n with requests := s.requests, drawn := s.drawn + n })

/-- Under Tick fairness (R257 a), while no Step changes `DT`, it is 0 from some point of the run on; and under Step
fairness too (R257 b) Steps without end find it 0, so a program that polls it sees 0. -/
def Obligations.TickFairRunBringsDelayToZero : Prop :=
  ∀ (ops : Nat → Request) (σ : Nat → State), IsHostWord ops → IsRun ops σ → TickFair ops →
    (∀ n, (ops n).isStep = true → (σ (n + 1)).dt = (σ n).dt) →
    (∃ N, ∀ n, N ≤ n → (σ n).dt = 0) ∧
    (StepFair ops → ∀ N, ∃ n, N ≤ n ∧ (ops n).isStep = true ∧ (σ n).dt = 0)
end

