-- ==== Sys2Proof/Laws/Decode.lean ====
section
/-! SUPPORT. The fields of R82 in words built from fields, and the masks of R87 as conditions on fields. -/

namespace Sys2Proof

/-! ### Fields of built words -/

@[simp] theorem opG_nnn (g : Nibble) (nnn : Addr) : opG (g ++ nnn) = g := by
  apply BitVec.eq_of_getLsbD_eq
  intro j hj
  simp only [opG, BitVec.getLsbD_append, BitVec.getLsbD_extractLsb']
  interval_cases j <;> simp

@[simp] theorem opNNN_nnn (g : Nibble) (nnn : Addr) : opNNN (g ++ nnn) = nnn := by
  apply BitVec.eq_of_getLsbD_eq
  intro j hj
  simp only [opNNN, BitVec.getLsbD_append, BitVec.getLsbD_extractLsb']
  interval_cases j <;> simp

@[simp] theorem opG_xnn (g x : Nibble) (nn : Byte) : opG (g ++ x ++ nn) = g := by
  apply BitVec.eq_of_getLsbD_eq
  intro j hj
  simp only [opG, BitVec.getLsbD_append, BitVec.getLsbD_extractLsb']
  interval_cases j <;> simp

@[simp] theorem opX_xnn (g x : Nibble) (nn : Byte) : opX (g ++ x ++ nn) = x := by
  apply BitVec.eq_of_getLsbD_eq
  intro j hj
  simp only [opX, BitVec.getLsbD_append, BitVec.getLsbD_extractLsb']
  interval_cases j <;> simp

@[simp] theorem opNN_xnn (g x : Nibble) (nn : Byte) : opNN (g ++ x ++ nn) = nn := by
  apply BitVec.eq_of_getLsbD_eq
  intro j hj
  simp only [opNN, BitVec.getLsbD_append, BitVec.getLsbD_extractLsb']
  interval_cases j <;> simp

@[simp] theorem opG_xyn (g x y n : Nibble) : opG (g ++ x ++ y ++ n) = g := by
  apply BitVec.eq_of_getLsbD_eq
  intro j hj
  simp only [opG, BitVec.getLsbD_append, BitVec.getLsbD_extractLsb']
  interval_cases j <;> simp

@[simp] theorem opX_xyn (g x y n : Nibble) : opX (g ++ x ++ y ++ n) = x := by
  apply BitVec.eq_of_getLsbD_eq
  intro j hj
  simp only [opX, BitVec.getLsbD_append, BitVec.getLsbD_extractLsb']
  interval_cases j <;> simp

@[simp] theorem opY_xyn (g x y n : Nibble) : opY (g ++ x ++ y ++ n) = y := by
  apply BitVec.eq_of_getLsbD_eq
  intro j hj
  simp only [opY, BitVec.getLsbD_append, BitVec.getLsbD_extractLsb']
  interval_cases j <;> simp

@[simp] theorem opN_xyn (g x y n : Nibble) : opN (g ++ x ++ y ++ n) = n := by
  apply BitVec.eq_of_getLsbD_eq
  intro j hj
  simp only [opN, BitVec.getLsbD_append, BitVec.getLsbD_extractLsb']
  interval_cases j <;> simp

@[simp] theorem opG_x8n (g n : Nibble) : opG (g ++ 0#8 ++ n) = g := by
  apply BitVec.eq_of_getLsbD_eq
  intro j hj
  simp only [opG, BitVec.getLsbD_append, BitVec.getLsbD_extractLsb']
  interval_cases j <;> simp

@[simp] theorem opN_x8n (g n : Nibble) : opN (g ++ 0#8 ++ n) = n := by
  apply BitVec.eq_of_getLsbD_eq
  intro j hj
  simp only [opN, BitVec.getLsbD_append, BitVec.getLsbD_extractLsb']
  interval_cases j <;> simp

/-! ### A word from its fields -/

theorem word_of_nnn (op : Word) : (opG op ++ opNNN op : Word) = op := by
  have h := op.isLt
  apply BitVec.eq_of_getLsbD_eq
  intro j hj
  simp only [opG, opNNN, BitVec.getLsbD_append, BitVec.getLsbD_extractLsb']
  by_cases hlt : j < 12
  · simp [hlt]
  · simp [hlt, show j - 12 < 4 by omega, show 12 + (j - 12) = j by omega]

theorem nnn_of_xnn (op : Word) : (opX op ++ opNN op : Addr) = opNNN op := by
  apply BitVec.eq_of_getLsbD_eq
  intro j hj
  simp only [opX, opNN, opNNN, BitVec.getLsbD_append, BitVec.getLsbD_extractLsb']
  by_cases hlt : j < 8
  · simp [hlt]; omega
  · simp [hlt, hj, show j - 8 < 4 by omega, show 8 + (j - 8) = j by omega]

theorem nn_of_yn (op : Word) : (opY op ++ opN op : Byte) = opNN op := by
  apply BitVec.eq_of_getLsbD_eq
  intro j hj
  simp only [opY, opN, opNN, BitVec.getLsbD_append, BitVec.getLsbD_extractLsb']
  by_cases hlt : j < 4
  · simp [hlt]; omega
  · simp [hlt, hj, show j - 4 < 4 by omega, show 4 + (j - 4) = j by omega]

/-! ### The masks -/

theorem and_F000 (op : Word) : op &&& 0xF000 = opG op ++ 0#12 := by
  apply BitVec.eq_of_getLsbD_eq
  intro j hj
  simp only [opG, BitVec.getLsbD_append, BitVec.getLsbD_extractLsb', BitVec.getLsbD_and]
  interval_cases j <;> simp

theorem and_F00F (op : Word) : op &&& 0xF00F = opG op ++ 0#8 ++ opN op := by
  apply BitVec.eq_of_getLsbD_eq
  intro j hj
  simp only [opG, opN, BitVec.getLsbD_append, BitVec.getLsbD_extractLsb', BitVec.getLsbD_and]
  interval_cases j <;> simp

theorem and_F0FF (op : Word) : op &&& 0xF0FF = opG op ++ 0#4 ++ opNN op := by
  apply BitVec.eq_of_getLsbD_eq
  intro j hj
  simp only [opG, opNN, BitVec.getLsbD_append, BitVec.getLsbD_extractLsb', BitVec.getLsbD_and]
  interval_cases j <;> simp

theorem and_FFFF (op : Word) : op &&& 0xFFFF = op := by
  apply BitVec.eq_of_getLsbD_eq
  intro j hj
  simp only [BitVec.getLsbD_and]
  interval_cases j <;> simp

/-- Mask 0xF000 tests the group. -/
theorem accepts_F000 (op : Word) (g : Nibble) (b : Word → Instr) :
    Row.accepts ⟨0xF000, g ++ 0#12, b⟩ op = decide (opG op = g) := by
  rw [Row.accepts, and_F000, Bool.eq_iff_iff, beq_iff_eq, decide_eq_true_eq]
  exact ⟨fun h => by simpa using congrArg opG h, fun h => by rw [h]⟩

/-- Mask 0xF00F tests the group and `N`. -/
theorem accepts_F00F (op : Word) (g n : Nibble) (b : Word → Instr) :
    Row.accepts ⟨0xF00F, g ++ 0#8 ++ n, b⟩ op = decide (opG op = g ∧ opN op = n) := by
  rw [Row.accepts, and_F00F, Bool.eq_iff_iff, beq_iff_eq, decide_eq_true_eq]
  refine ⟨fun h => ⟨?_, ?_⟩, fun h => by rw [h.1, h.2]⟩
  · simpa using congrArg opG h
  · simpa using congrArg opN h

/-- Mask 0xF0FF tests the group and `NN`. -/
theorem accepts_F0FF (op : Word) (g : Nibble) (nn : Byte) (b : Word → Instr) :
    Row.accepts ⟨0xF0FF, g ++ 0#4 ++ nn, b⟩ op = decide (opG op = g ∧ opNN op = nn) := by
  rw [Row.accepts, and_F0FF, Bool.eq_iff_iff, beq_iff_eq, decide_eq_true_eq]
  refine ⟨fun h => ⟨?_, ?_⟩, fun h => by rw [h.1, h.2]⟩
  · simpa using congrArg opG h
  · simpa using congrArg opNN h

/-- Mask 0xFFFF tests the whole word. -/
theorem accepts_FFFF (op p : Word) (b : Word → Instr) : Row.accepts ⟨0xFFFF, p, b⟩ op = decide (op = p) := by
  rw [Row.accepts, and_FFFF]; rfl

/-- One row of the opcode map tested: the row's instruction when it accepts the word, else the rows after it. -/
theorem find_row (op : Word) (r : Row) (rs : List Row) (c : Prop) [Decidable c] (h : r.accepts op = decide c) :
    ((r :: rs).find? (fun r => r.accepts op)).map (fun r => r.build op) =
      if c then some (r.build op) else (rs.find? (fun r => r.accepts op)).map (fun r => r.build op) := by
  by_cases hc : c <;> simp [h, hc]

/-- The opcode map as a chain of tests on the fields of R82. -/
theorem decodeWord_eq (op : Word) : decodeWord op =
    if op = 0x00E0 then some .cls else
    if op = 0x00EE then some .ret else
    if opG op = 0x1 then some (.jp (opNNN op)) else
    if opG op = 0x2 then some (.call (opNNN op)) else
    if opG op = 0x3 then some (.seImm (opX op) (opNN op)) else
    if opG op = 0x4 then some (.sneImm (opX op) (opNN op)) else
    if opG op = 0x5 then some (.seReg (opX op) (opY op) (opN op)) else
    if opG op = 0x6 then some (.ldImm (opX op) (opNN op)) else
    if opG op = 0x7 then some (.addImm (opX op) (opNN op)) else
    if opG op = 0x8 ∧ opN op = 0x0 then some (.ldReg (opX op) (opY op)) else
    if opG op = 0x8 ∧ opN op = 0x1 then some (.or (opX op) (opY op)) else
    if opG op = 0x8 ∧ opN op = 0x2 then some (.and (opX op) (opY op)) else
    if opG op = 0x8 ∧ opN op = 0x3 then some (.xor (opX op) (opY op)) else
    if opG op = 0x8 ∧ opN op = 0x4 then some (.addReg (opX op) (opY op)) else
    if opG op = 0x8 ∧ opN op = 0x5 then some (.sub (opX op) (opY op)) else
    if opG op = 0x8 ∧ opN op = 0x6 then some (.shr (opX op) (opY op)) else
    if opG op = 0x8 ∧ opN op = 0x7 then some (.subn (opX op) (opY op)) else
    if opG op = 0x8 ∧ opN op = 0xE then some (.shl (opX op) (opY op)) else
    if opG op = 0x9 then some (.sneReg (opX op) (opY op) (opN op)) else
    if opG op = 0xA then some (.ldI (opNNN op)) else
    if opG op = 0xB then some (.jpV0 (opNNN op)) else
    if opG op = 0xC then some (.rnd (opX op) (opNN op)) else
    if opG op = 0xD then some (.drw (opX op) (opY op) (opN op)) else
    if opG op = 0xE ∧ opNN op = 0x9E then some (.skp (opX op)) else
    if opG op = 0xE ∧ opNN op = 0xA1 then some (.sknp (opX op)) else
    if opG op = 0xF ∧ opNN op = 0x07 then some (.ldVxDt (opX op)) else
    if opG op = 0xF ∧ opNN op = 0x0A then some (.ldVxK (opX op)) else
    if opG op = 0xF ∧ opNN op = 0x15 then some (.ldDtVx (opX op)) else
    if opG op = 0xF ∧ opNN op = 0x18 then some (.ldStVx (opX op)) else
    if opG op = 0xF ∧ opNN op = 0x1E then some (.addI (opX op)) else
    if opG op = 0xF ∧ opNN op = 0x29 then some (.ldF (opX op)) else
    if opG op = 0xF ∧ opNN op = 0x33 then some (.ldB (opX op)) else
    if opG op = 0xF ∧ opNN op = 0x55 then some (.stRegs (opX op)) else
    if opG op = 0xF ∧ opNN op = 0x65 then some (.ldRegs (opX op)) else
    none := by
  unfold decodeWord opcodeRows rowsLow rowsGroup8 rowsHigh rowsGroupEF
  simp only [List.cons_append, List.nil_append]
  refine (find_row op _ _ (op = 0x00E0) (accepts_FFFF op _ _)).trans (if_congr Iff.rfl rfl ?_)
  refine (find_row op _ _ (op = 0x00EE) (accepts_FFFF op _ _)).trans (if_congr Iff.rfl rfl ?_)
  refine (find_row op _ _ (opG op = 0x1) (accepts_F000 op 0x1 _)).trans (if_congr Iff.rfl rfl ?_)
  refine (find_row op _ _ (opG op = 0x2) (accepts_F000 op 0x2 _)).trans (if_congr Iff.rfl rfl ?_)
  refine (find_row op _ _ (opG op = 0x3) (accepts_F000 op 0x3 _)).trans (if_congr Iff.rfl rfl ?_)
  refine (find_row op _ _ (opG op = 0x4) (accepts_F000 op 0x4 _)).trans (if_congr Iff.rfl rfl ?_)
  refine (find_row op _ _ (opG op = 0x5) (accepts_F000 op 0x5 _)).trans (if_congr Iff.rfl rfl ?_)
  refine (find_row op _ _ (opG op = 0x6) (accepts_F000 op 0x6 _)).trans (if_congr Iff.rfl rfl ?_)
  refine (find_row op _ _ (opG op = 0x7) (accepts_F000 op 0x7 _)).trans (if_congr Iff.rfl rfl ?_)
  refine (find_row op _ _ (opG op = 0x8 ∧ opN op = 0x0) (accepts_F00F op 0x8 0x0 _)).trans (if_congr Iff.rfl rfl ?_)
  refine (find_row op _ _ (opG op = 0x8 ∧ opN op = 0x1) (accepts_F00F op 0x8 0x1 _)).trans (if_congr Iff.rfl rfl ?_)
  refine (find_row op _ _ (opG op = 0x8 ∧ opN op = 0x2) (accepts_F00F op 0x8 0x2 _)).trans (if_congr Iff.rfl rfl ?_)
  refine (find_row op _ _ (opG op = 0x8 ∧ opN op = 0x3) (accepts_F00F op 0x8 0x3 _)).trans (if_congr Iff.rfl rfl ?_)
  refine (find_row op _ _ (opG op = 0x8 ∧ opN op = 0x4) (accepts_F00F op 0x8 0x4 _)).trans (if_congr Iff.rfl rfl ?_)
  refine (find_row op _ _ (opG op = 0x8 ∧ opN op = 0x5) (accepts_F00F op 0x8 0x5 _)).trans (if_congr Iff.rfl rfl ?_)
  refine (find_row op _ _ (opG op = 0x8 ∧ opN op = 0x6) (accepts_F00F op 0x8 0x6 _)).trans (if_congr Iff.rfl rfl ?_)
  refine (find_row op _ _ (opG op = 0x8 ∧ opN op = 0x7) (accepts_F00F op 0x8 0x7 _)).trans (if_congr Iff.rfl rfl ?_)
  refine (find_row op _ _ (opG op = 0x8 ∧ opN op = 0xE) (accepts_F00F op 0x8 0xE _)).trans (if_congr Iff.rfl rfl ?_)
  refine (find_row op _ _ (opG op = 0x9) (accepts_F000 op 0x9 _)).trans (if_congr Iff.rfl rfl ?_)
  refine (find_row op _ _ (opG op = 0xA) (accepts_F000 op 0xA _)).trans (if_congr Iff.rfl rfl ?_)
  refine (find_row op _ _ (opG op = 0xB) (accepts_F000 op 0xB _)).trans (if_congr Iff.rfl rfl ?_)
  refine (find_row op _ _ (opG op = 0xC) (accepts_F000 op 0xC _)).trans (if_congr Iff.rfl rfl ?_)
  refine (find_row op _ _ (opG op = 0xD) (accepts_F000 op 0xD _)).trans (if_congr Iff.rfl rfl ?_)
  refine (find_row op _ _ (opG op = 0xE ∧ opNN op = 0x9E) (accepts_F0FF op 0xE 0x9E _)).trans (if_congr Iff.rfl rfl ?_)
  refine (find_row op _ _ (opG op = 0xE ∧ opNN op = 0xA1) (accepts_F0FF op 0xE 0xA1 _)).trans (if_congr Iff.rfl rfl ?_)
  refine (find_row op _ _ (opG op = 0xF ∧ opNN op = 0x07) (accepts_F0FF op 0xF 0x07 _)).trans (if_congr Iff.rfl rfl ?_)
  refine (find_row op _ _ (opG op = 0xF ∧ opNN op = 0x0A) (accepts_F0FF op 0xF 0x0A _)).trans (if_congr Iff.rfl rfl ?_)
  refine (find_row op _ _ (opG op = 0xF ∧ opNN op = 0x15) (accepts_F0FF op 0xF 0x15 _)).trans (if_congr Iff.rfl rfl ?_)
  refine (find_row op _ _ (opG op = 0xF ∧ opNN op = 0x18) (accepts_F0FF op 0xF 0x18 _)).trans (if_congr Iff.rfl rfl ?_)
  refine (find_row op _ _ (opG op = 0xF ∧ opNN op = 0x1E) (accepts_F0FF op 0xF 0x1E _)).trans (if_congr Iff.rfl rfl ?_)
  refine (find_row op _ _ (opG op = 0xF ∧ opNN op = 0x29) (accepts_F0FF op 0xF 0x29 _)).trans (if_congr Iff.rfl rfl ?_)
  refine (find_row op _ _ (opG op = 0xF ∧ opNN op = 0x33) (accepts_F0FF op 0xF 0x33 _)).trans (if_congr Iff.rfl rfl ?_)
  refine (find_row op _ _ (opG op = 0xF ∧ opNN op = 0x55) (accepts_F0FF op 0xF 0x55 _)).trans (if_congr Iff.rfl rfl ?_)
  refine (find_row op _ _ (opG op = 0xF ∧ opNN op = 0x65) (accepts_F0FF op 0xF 0x65 _)).trans (if_congr Iff.rfl rfl ?_)
  rfl

/-- The word of its two bytes. -/
theorem wordOf_bytes (op : Word) : wordOf (highByte op) (lowByte op) = op := by
  apply BitVec.eq_of_getLsbD_eq
  intro j hj
  simp only [wordOf, highByte, lowByte, BitVec.getLsbD_append, BitVec.getLsbD_extractLsb']
  by_cases hlt : j < 8
  · simp [hlt]
  · simp [hlt, show j - 8 < 8 by omega, show 8 + (j - 8) = j by omega]

end Sys2Proof
end

