-- ==== Sys2Proof/Laws/Memory.lean ====
section
/-! SUPPORT. Memory: read after write, and that every operation keeps the canonical form. -/

namespace Sys2Proof.Machine

/-- The canonical form as a proposition. -/
theorem Memory.wf_iff (m : Memory) :
    m.wf = true ↔ m.Pairwise (fun c d => c.1 < d.1) ∧ ∀ c ∈ m, c.1 < 4096 ∧ c.2 ≠ unlistedByte c.1 := by
  simp [Memory.wf, List.all_eq_true, Config.memSize]

theorem Memory.wf_nil : Memory.wf [] = true := by decide

/-- The tail of a canonical memory is canonical, and lies above its first cell. -/
theorem Memory.wf_tail {c : Host.Cell} {m : Memory} (h : Memory.wf (c :: m) = true) :
    m.wf = true ∧ (∀ d ∈ m, c.1 < d.1) ∧ c.1 < 4096 ∧ c.2 ≠ unlistedByte c.1 := by
  rw [Memory.wf_iff, List.pairwise_cons] at h
  obtain ⟨⟨h1, h2⟩, h3⟩ := h
  exact ⟨(Memory.wf_iff m).2 ⟨h2, fun d hd => h3 d (List.mem_cons_of_mem _ hd)⟩, h1, h3 c List.mem_cons_self⟩

/-- An address below every cell reads as unlisted. -/
theorem Memory.read_of_lt {m : Memory} {a : Nat} (h : ∀ d ∈ m, a < d.1) : m.read a = unlistedByte a := by
  induction m with
  | nil => rfl
  | cons c m ih =>
    have hc := h c List.mem_cons_self
    rw [Memory.read, if_neg (by omega)]
    exact ih (fun d hd => h d (List.mem_cons_of_mem _ hd))

theorem Memory.read_cons_self {m : Memory} {a : Nat} (b : Byte) (h : ∀ d ∈ m, a < d.1) :
    (Memory.cons a b m).read a = b := by
  unfold Memory.cons
  split
  · rw [Memory.read_of_lt h]; exact Eq.symm ‹_›
  · simp [Memory.read]

theorem Memory.read_cons_other {m : Memory} {a a' : Nat} (b : Byte) (h : a ≠ a') :
    (Memory.cons a b m).read a' = m.read a' := by
  unfold Memory.cons
  split
  · rfl
  · simp [Memory.read, h]

/-- Reading what was written. -/
theorem Memory.read_write_self {m : Memory} (h : m.wf = true) (a : Nat) (b : Byte) : (m.write a b).read a = b := by
  induction m with
  | nil => exact Memory.read_cons_self b (by simp)
  | cons c m ih =>
    obtain ⟨hm, hlt, -⟩ := Memory.wf_tail h
    unfold Memory.write
    split
    · refine Memory.read_cons_self b (fun d hd => ?_)
      rcases List.mem_cons.1 hd with rfl | hd
      · assumption
      · have := hlt d hd; omega
    · split
      · exact Memory.read_cons_self b (fun d hd => by have := hlt d hd; omega)
      · rw [Memory.read, if_neg (by omega)]; exact ih hm

/-- A write leaves every other address alone. -/
theorem Memory.read_write_other (m : Memory) {a a' : Nat} (b : Byte) (h : a' ≠ a) :
    (m.write a b).read a' = m.read a' := by
  induction m with
  | nil => exact Memory.read_cons_other b (Ne.symm h)
  | cons c m ih =>
    unfold Memory.write
    split
    · exact Memory.read_cons_other b (Ne.symm h)
    · split
      · rw [Memory.read_cons_other b (Ne.symm h), Memory.read, if_neg (by omega)]
      · simp only [Memory.read, ih]

theorem Memory.mem_cons {m : Memory} {a : Nat} {b : Byte} {c : Host.Cell} (h : c ∈ Memory.cons a b m) :
    (c = (a, b) ∧ b ≠ unlistedByte a) ∨ c ∈ m := by
  unfold Memory.cons at h
  split at h
  · exact .inr h
  · rcases List.mem_cons.1 h with h | h
    · exact .inl ⟨h, ‹_›⟩
    · exact .inr h

/-- The cells after a write: the written one or ones that were there. -/
theorem Memory.mem_write {m : Memory} {a : Nat} {b : Byte} {c : Host.Cell} (h : c ∈ m.write a b) :
    (c = (a, b) ∧ b ≠ unlistedByte a) ∨ c ∈ m := by
  induction m with
  | nil => exact Memory.mem_cons h
  | cons d m ih =>
    unfold Memory.write at h
    split at h
    · exact Memory.mem_cons h
    · split at h
      · exact (Memory.mem_cons h).imp_right (List.mem_cons_of_mem _)
      · rcases List.mem_cons.1 h with rfl | h
        · exact .inr List.mem_cons_self
        · exact (ih h).imp_right (List.mem_cons_of_mem _)

theorem Memory.wf_cons {m : Memory} {a : Nat} (b : Byte) (hm : m.wf = true) (ha : a < 4096) (h : ∀ d ∈ m, a < d.1) :
    (Memory.cons a b m).wf = true := by
  rw [Memory.wf_iff] at hm ⊢
  unfold Memory.cons
  split
  · exact hm
  · refine ⟨List.pairwise_cons.2 ⟨h, hm.1⟩, fun c hc => ?_⟩
    rcases List.mem_cons.1 hc with rfl | hc
    · exact ⟨ha, ‹_›⟩
    · exact hm.2 c hc

/-- A write inside the memory keeps the canonical form. -/
theorem Memory.wf_write {m : Memory} (h : m.wf = true) {a : Nat} (b : Byte) (ha : a < 4096) : (m.write a b).wf = true := by
  induction m with
  | nil => exact Memory.wf_cons b h ha (by simp)
  | cons c m ih =>
    obtain ⟨hm, hlt, hc⟩ := Memory.wf_tail h
    unfold Memory.write
    split
    · refine Memory.wf_cons b h ha (fun d hd => ?_)
      rcases List.mem_cons.1 hd with rfl | hd
      · assumption
      · have := hlt d hd; omega
    · split
      · exact Memory.wf_cons b hm ha (fun d hd => by have := hlt d hd; omega)
      · have hw := (Memory.wf_iff _).1 (ih hm)
        refine (Memory.wf_iff _).2 ⟨List.pairwise_cons.2 ⟨fun d hd => ?_, hw.1⟩, fun d hd => ?_⟩
        · rcases Memory.mem_write hd with ⟨rfl, -⟩ | hd
          · show c.1 < a
            omega
          · exact hlt d hd
        · rcases List.mem_cons.1 hd with rfl | hd
          · exact hc
          · exact hw.2 d hd

theorem Memory.wf_writeBytes {m : Memory} (h : m.wf = true) (a : Nat) (bs : List Byte) (ha : a + bs.length ≤ 4096) :
    (m.writeBytes a bs).wf = true := by
  induction bs generalizing m a with
  | nil => exact h
  | cons b bs ih =>
    simp only [List.length_cons] at ha
    exact ih (Memory.wf_write h b (by omega)) (a + 1) (by omega)

/-- Bytes written at consecutive addresses leave every address outside them alone. -/
theorem Memory.read_writeBytes_outside (m : Memory) (a : Nat) (bs : List Byte) {a' : Nat}
    (h : a' < a ∨ a + bs.length ≤ a') : (m.writeBytes a bs).read a' = m.read a' := by
  induction bs generalizing m a with
  | nil => rfl
  | cons b bs ih =>
    simp only [List.length_cons] at h
    rw [Memory.writeBytes, ih _ _ (by omega), Memory.read_write_other _ _ (by omega)]

/-- Bytes written at consecutive addresses read back in order. -/
theorem Memory.read_writeBytes {m : Memory} (h : m.wf = true) (a : Nat) (bs : List Byte) (ha : a + bs.length ≤ 4096)
    (k : Nat) (hk : k < bs.length) : (m.writeBytes a bs).read (a + k) = bs[k] := by
  induction bs generalizing m a k with
  | nil => simp at hk
  | cons b bs ih =>
    simp only [List.length_cons] at ha hk
    cases k with
    | zero => rw [Memory.writeBytes, Memory.read_writeBytes_outside _ _ _ (by omega)]; exact Memory.read_write_self h _ _
    | succ k =>
      rw [Memory.writeBytes, show a + (k + 1) = a + 1 + k by omega,
        ih (Memory.wf_write h b (by omega)) _ (by omega) k (by omega)]
      rfl

/-- The memory Reset leaves is canonical, for any font and any program that fits. -/
theorem wf_resetImage {inp : ResetInputs} (h : inp.wf = true) : (resetImage inp).wf = true := by
  have hp : inp.program.length ≤ 3584 := by simpa [ResetInputs.wf, Config.maxProgram] using h
  refine Memory.wf_writeBytes (Memory.wf_writeBytes Memory.wf_nil _ _ ?_) _ _ ?_
  · simp [Config.fontBase, Config.fontSize]
  · simp [Config.progBase]; omega

end Sys2Proof.Machine
end

