-- ==== Sys2Proof/Laws/State.lean ====
section
/-! SUPPORT. One lemma per field per update of State, all true by definition. -/

namespace Sys2Proof.Machine

variable (s : State)

@[simp] theorem State.writeV_v (x : Nibble) (b : Byte) : (s.writeV x b).v = s.v.set x.toNat b x.isLt := rfl
@[simp] theorem State.writeV_i (x : Nibble) (b : Byte) : (s.writeV x b).i = s.i := rfl
@[simp] theorem State.writeV_pc (x : Nibble) (b : Byte) : (s.writeV x b).pc = s.pc := rfl
@[simp] theorem State.writeV_stack (x : Nibble) (b : Byte) : (s.writeV x b).stack = s.stack := rfl
@[simp] theorem State.writeV_disp (x : Nibble) (b : Byte) : (s.writeV x b).disp = s.disp := rfl
@[simp] theorem State.writeV_dt (x : Nibble) (b : Byte) : (s.writeV x b).dt = s.dt := rfl
@[simp] theorem State.writeV_st (x : Nibble) (b : Byte) : (s.writeV x b).st = s.st := rfl
@[simp] theorem State.writeV_quirks (x : Nibble) (b : Byte) : (s.writeV x b).quirks = s.quirks := rfl
@[simp] theorem State.writeV_halted (x : Nibble) (b : Byte) : (s.writeV x b).halted = s.halted := rfl
@[simp] theorem State.writeV_mem (x : Nibble) (b : Byte) : (s.writeV x b).mem = s.mem := rfl
@[simp] theorem State.writeV_keys (x : Nibble) (b : Byte) : (s.writeV x b).keys = s.keys := rfl
@[simp] theorem State.writeV_rnd (x : Nibble) (b : Byte) : (s.writeV x b).rnd = s.rnd := rfl
@[simp] theorem State.writeV_report (x : Nibble) (b : Byte) : (s.writeV x b).report = s.report := rfl
@[simp] theorem State.writeV_reported (x : Nibble) (b : Byte) : (s.writeV x b).reported = s.reported := rfl
@[simp] theorem State.writeV_requests (x : Nibble) (b : Byte) : (s.writeV x b).requests = s.requests := rfl
@[simp] theorem State.writeV_drawn (x : Nibble) (b : Byte) : (s.writeV x b).drawn = s.drawn := rfl

@[simp] theorem State.writeFlag_v (b : Bool) : (s.writeFlag b).v = s.v.set 15 (flagByte b) := rfl
@[simp] theorem State.writeFlag_i (b : Bool) : (s.writeFlag b).i = s.i := rfl
@[simp] theorem State.writeFlag_pc (b : Bool) : (s.writeFlag b).pc = s.pc := rfl
@[simp] theorem State.writeFlag_stack (b : Bool) : (s.writeFlag b).stack = s.stack := rfl
@[simp] theorem State.writeFlag_disp (b : Bool) : (s.writeFlag b).disp = s.disp := rfl
@[simp] theorem State.writeFlag_dt (b : Bool) : (s.writeFlag b).dt = s.dt := rfl
@[simp] theorem State.writeFlag_st (b : Bool) : (s.writeFlag b).st = s.st := rfl
@[simp] theorem State.writeFlag_quirks (b : Bool) : (s.writeFlag b).quirks = s.quirks := rfl
@[simp] theorem State.writeFlag_halted (b : Bool) : (s.writeFlag b).halted = s.halted := rfl
@[simp] theorem State.writeFlag_mem (b : Bool) : (s.writeFlag b).mem = s.mem := rfl
@[simp] theorem State.writeFlag_keys (b : Bool) : (s.writeFlag b).keys = s.keys := rfl
@[simp] theorem State.writeFlag_rnd (b : Bool) : (s.writeFlag b).rnd = s.rnd := rfl
@[simp] theorem State.writeFlag_report (b : Bool) : (s.writeFlag b).report = s.report := rfl
@[simp] theorem State.writeFlag_reported (b : Bool) : (s.writeFlag b).reported = s.reported := rfl
@[simp] theorem State.writeFlag_requests (b : Bool) : (s.writeFlag b).requests = s.requests := rfl
@[simp] theorem State.writeFlag_drawn (b : Bool) : (s.writeFlag b).drawn = s.drawn := rfl

@[simp] theorem State.writeResultFlag_v (x : Nibble) (b : Byte) (f : Bool) : (s.writeResultFlag x b f).v = (s.v.set x.toNat b x.isLt).set 15 (flagByte f) := rfl
@[simp] theorem State.writeResultFlag_i (x : Nibble) (b : Byte) (f : Bool) : (s.writeResultFlag x b f).i = s.i := rfl
@[simp] theorem State.writeResultFlag_pc (x : Nibble) (b : Byte) (f : Bool) : (s.writeResultFlag x b f).pc = s.pc := rfl
@[simp] theorem State.writeResultFlag_stack (x : Nibble) (b : Byte) (f : Bool) : (s.writeResultFlag x b f).stack = s.stack := rfl
@[simp] theorem State.writeResultFlag_disp (x : Nibble) (b : Byte) (f : Bool) : (s.writeResultFlag x b f).disp = s.disp := rfl
@[simp] theorem State.writeResultFlag_dt (x : Nibble) (b : Byte) (f : Bool) : (s.writeResultFlag x b f).dt = s.dt := rfl
@[simp] theorem State.writeResultFlag_st (x : Nibble) (b : Byte) (f : Bool) : (s.writeResultFlag x b f).st = s.st := rfl
@[simp] theorem State.writeResultFlag_quirks (x : Nibble) (b : Byte) (f : Bool) : (s.writeResultFlag x b f).quirks = s.quirks := rfl
@[simp] theorem State.writeResultFlag_halted (x : Nibble) (b : Byte) (f : Bool) : (s.writeResultFlag x b f).halted = s.halted := rfl
@[simp] theorem State.writeResultFlag_mem (x : Nibble) (b : Byte) (f : Bool) : (s.writeResultFlag x b f).mem = s.mem := rfl
@[simp] theorem State.writeResultFlag_keys (x : Nibble) (b : Byte) (f : Bool) : (s.writeResultFlag x b f).keys = s.keys := rfl
@[simp] theorem State.writeResultFlag_rnd (x : Nibble) (b : Byte) (f : Bool) : (s.writeResultFlag x b f).rnd = s.rnd := rfl
@[simp] theorem State.writeResultFlag_report (x : Nibble) (b : Byte) (f : Bool) : (s.writeResultFlag x b f).report = s.report := rfl
@[simp] theorem State.writeResultFlag_reported (x : Nibble) (b : Byte) (f : Bool) : (s.writeResultFlag x b f).reported = s.reported := rfl
@[simp] theorem State.writeResultFlag_requests (x : Nibble) (b : Byte) (f : Bool) : (s.writeResultFlag x b f).requests = s.requests := rfl
@[simp] theorem State.writeResultFlag_drawn (x : Nibble) (b : Byte) (f : Bool) : (s.writeResultFlag x b f).drawn = s.drawn := rfl

@[simp] theorem State.setI_v (a : Word) : (s.setI a).v = s.v := rfl
@[simp] theorem State.setI_i (a : Word) : (s.setI a).i = a := rfl
@[simp] theorem State.setI_pc (a : Word) : (s.setI a).pc = s.pc := rfl
@[simp] theorem State.setI_stack (a : Word) : (s.setI a).stack = s.stack := rfl
@[simp] theorem State.setI_disp (a : Word) : (s.setI a).disp = s.disp := rfl
@[simp] theorem State.setI_dt (a : Word) : (s.setI a).dt = s.dt := rfl
@[simp] theorem State.setI_st (a : Word) : (s.setI a).st = s.st := rfl
@[simp] theorem State.setI_quirks (a : Word) : (s.setI a).quirks = s.quirks := rfl
@[simp] theorem State.setI_halted (a : Word) : (s.setI a).halted = s.halted := rfl
@[simp] theorem State.setI_mem (a : Word) : (s.setI a).mem = s.mem := rfl
@[simp] theorem State.setI_keys (a : Word) : (s.setI a).keys = s.keys := rfl
@[simp] theorem State.setI_rnd (a : Word) : (s.setI a).rnd = s.rnd := rfl
@[simp] theorem State.setI_report (a : Word) : (s.setI a).report = s.report := rfl
@[simp] theorem State.setI_reported (a : Word) : (s.setI a).reported = s.reported := rfl
@[simp] theorem State.setI_requests (a : Word) : (s.setI a).requests = s.requests := rfl
@[simp] theorem State.setI_drawn (a : Word) : (s.setI a).drawn = s.drawn := rfl

@[simp] theorem State.setPc_v (a : Word) : (s.setPc a).v = s.v := rfl
@[simp] theorem State.setPc_i (a : Word) : (s.setPc a).i = s.i := rfl
@[simp] theorem State.setPc_pc (a : Word) : (s.setPc a).pc = a := rfl
@[simp] theorem State.setPc_stack (a : Word) : (s.setPc a).stack = s.stack := rfl
@[simp] theorem State.setPc_disp (a : Word) : (s.setPc a).disp = s.disp := rfl
@[simp] theorem State.setPc_dt (a : Word) : (s.setPc a).dt = s.dt := rfl
@[simp] theorem State.setPc_st (a : Word) : (s.setPc a).st = s.st := rfl
@[simp] theorem State.setPc_quirks (a : Word) : (s.setPc a).quirks = s.quirks := rfl
@[simp] theorem State.setPc_halted (a : Word) : (s.setPc a).halted = s.halted := rfl
@[simp] theorem State.setPc_mem (a : Word) : (s.setPc a).mem = s.mem := rfl
@[simp] theorem State.setPc_keys (a : Word) : (s.setPc a).keys = s.keys := rfl
@[simp] theorem State.setPc_rnd (a : Word) : (s.setPc a).rnd = s.rnd := rfl
@[simp] theorem State.setPc_report (a : Word) : (s.setPc a).report = s.report := rfl
@[simp] theorem State.setPc_reported (a : Word) : (s.setPc a).reported = s.reported := rfl
@[simp] theorem State.setPc_requests (a : Word) : (s.setPc a).requests = s.requests := rfl
@[simp] theorem State.setPc_drawn (a : Word) : (s.setPc a).drawn = s.drawn := rfl

@[simp] theorem State.advance_v : s.advance.v = s.v := rfl
@[simp] theorem State.advance_i : s.advance.i = s.i := rfl
@[simp] theorem State.advance_pc : s.advance.pc = s.pc + 2 := rfl
@[simp] theorem State.advance_stack : s.advance.stack = s.stack := rfl
@[simp] theorem State.advance_disp : s.advance.disp = s.disp := rfl
@[simp] theorem State.advance_dt : s.advance.dt = s.dt := rfl
@[simp] theorem State.advance_st : s.advance.st = s.st := rfl
@[simp] theorem State.advance_quirks : s.advance.quirks = s.quirks := rfl
@[simp] theorem State.advance_halted : s.advance.halted = s.halted := rfl
@[simp] theorem State.advance_mem : s.advance.mem = s.mem := rfl
@[simp] theorem State.advance_keys : s.advance.keys = s.keys := rfl
@[simp] theorem State.advance_rnd : s.advance.rnd = s.rnd := rfl
@[simp] theorem State.advance_report : s.advance.report = s.report := rfl
@[simp] theorem State.advance_reported : s.advance.reported = s.reported := rfl
@[simp] theorem State.advance_requests : s.advance.requests = s.requests := rfl
@[simp] theorem State.advance_drawn : s.advance.drawn = s.drawn := rfl

@[simp] theorem State.jumpTo_v (a : Word) : (s.jumpTo a).v = s.v := rfl
@[simp] theorem State.jumpTo_i (a : Word) : (s.jumpTo a).i = s.i := rfl
@[simp] theorem State.jumpTo_pc (a : Word) : (s.jumpTo a).pc = a := rfl
@[simp] theorem State.jumpTo_stack (a : Word) : (s.jumpTo a).stack = s.stack := rfl
@[simp] theorem State.jumpTo_disp (a : Word) : (s.jumpTo a).disp = s.disp := rfl
@[simp] theorem State.jumpTo_dt (a : Word) : (s.jumpTo a).dt = s.dt := rfl
@[simp] theorem State.jumpTo_st (a : Word) : (s.jumpTo a).st = s.st := rfl
@[simp] theorem State.jumpTo_quirks (a : Word) : (s.jumpTo a).quirks = s.quirks := rfl
@[simp] theorem State.jumpTo_halted (a : Word) : (s.jumpTo a).halted = (s.halted || a == s.instrAddr) := rfl
@[simp] theorem State.jumpTo_mem (a : Word) : (s.jumpTo a).mem = s.mem := rfl
@[simp] theorem State.jumpTo_keys (a : Word) : (s.jumpTo a).keys = s.keys := rfl
@[simp] theorem State.jumpTo_rnd (a : Word) : (s.jumpTo a).rnd = s.rnd := rfl
@[simp] theorem State.jumpTo_report (a : Word) : (s.jumpTo a).report = s.report := rfl
@[simp] theorem State.jumpTo_reported (a : Word) : (s.jumpTo a).reported = s.reported := rfl
@[simp] theorem State.jumpTo_requests (a : Word) : (s.jumpTo a).requests = s.requests := rfl
@[simp] theorem State.jumpTo_drawn (a : Word) : (s.jumpTo a).drawn = s.drawn := rfl

@[simp] theorem State.push_v (a : Word) : (s.push a).v = s.v := rfl
@[simp] theorem State.push_i (a : Word) : (s.push a).i = s.i := rfl
@[simp] theorem State.push_pc (a : Word) : (s.push a).pc = s.pc := rfl
@[simp] theorem State.push_stack (a : Word) : (s.push a).stack = a :: s.stack := rfl
@[simp] theorem State.push_disp (a : Word) : (s.push a).disp = s.disp := rfl
@[simp] theorem State.push_dt (a : Word) : (s.push a).dt = s.dt := rfl
@[simp] theorem State.push_st (a : Word) : (s.push a).st = s.st := rfl
@[simp] theorem State.push_quirks (a : Word) : (s.push a).quirks = s.quirks := rfl
@[simp] theorem State.push_halted (a : Word) : (s.push a).halted = s.halted := rfl
@[simp] theorem State.push_mem (a : Word) : (s.push a).mem = s.mem := rfl
@[simp] theorem State.push_keys (a : Word) : (s.push a).keys = s.keys := rfl
@[simp] theorem State.push_rnd (a : Word) : (s.push a).rnd = s.rnd := rfl
@[simp] theorem State.push_report (a : Word) : (s.push a).report = s.report := rfl
@[simp] theorem State.push_reported (a : Word) : (s.push a).reported = s.reported := rfl
@[simp] theorem State.push_requests (a : Word) : (s.push a).requests = s.requests := rfl
@[simp] theorem State.push_drawn (a : Word) : (s.push a).drawn = s.drawn := rfl

@[simp] theorem State.setDt_v (b : Byte) : (s.setDt b).v = s.v := rfl
@[simp] theorem State.setDt_i (b : Byte) : (s.setDt b).i = s.i := rfl
@[simp] theorem State.setDt_pc (b : Byte) : (s.setDt b).pc = s.pc := rfl
@[simp] theorem State.setDt_stack (b : Byte) : (s.setDt b).stack = s.stack := rfl
@[simp] theorem State.setDt_disp (b : Byte) : (s.setDt b).disp = s.disp := rfl
@[simp] theorem State.setDt_dt (b : Byte) : (s.setDt b).dt = b := rfl
@[simp] theorem State.setDt_st (b : Byte) : (s.setDt b).st = s.st := rfl
@[simp] theorem State.setDt_quirks (b : Byte) : (s.setDt b).quirks = s.quirks := rfl
@[simp] theorem State.setDt_halted (b : Byte) : (s.setDt b).halted = s.halted := rfl
@[simp] theorem State.setDt_mem (b : Byte) : (s.setDt b).mem = s.mem := rfl
@[simp] theorem State.setDt_keys (b : Byte) : (s.setDt b).keys = s.keys := rfl
@[simp] theorem State.setDt_rnd (b : Byte) : (s.setDt b).rnd = s.rnd := rfl
@[simp] theorem State.setDt_report (b : Byte) : (s.setDt b).report = s.report := rfl
@[simp] theorem State.setDt_reported (b : Byte) : (s.setDt b).reported = s.reported := rfl
@[simp] theorem State.setDt_requests (b : Byte) : (s.setDt b).requests = s.requests := rfl
@[simp] theorem State.setDt_drawn (b : Byte) : (s.setDt b).drawn = s.drawn := rfl

@[simp] theorem State.setSt_v (b : Byte) : (s.setSt b).v = s.v := rfl
@[simp] theorem State.setSt_i (b : Byte) : (s.setSt b).i = s.i := rfl
@[simp] theorem State.setSt_pc (b : Byte) : (s.setSt b).pc = s.pc := rfl
@[simp] theorem State.setSt_stack (b : Byte) : (s.setSt b).stack = s.stack := rfl
@[simp] theorem State.setSt_disp (b : Byte) : (s.setSt b).disp = s.disp := rfl
@[simp] theorem State.setSt_dt (b : Byte) : (s.setSt b).dt = s.dt := rfl
@[simp] theorem State.setSt_st (b : Byte) : (s.setSt b).st = b := rfl
@[simp] theorem State.setSt_quirks (b : Byte) : (s.setSt b).quirks = s.quirks := rfl
@[simp] theorem State.setSt_halted (b : Byte) : (s.setSt b).halted = s.halted := rfl
@[simp] theorem State.setSt_mem (b : Byte) : (s.setSt b).mem = s.mem := rfl
@[simp] theorem State.setSt_keys (b : Byte) : (s.setSt b).keys = s.keys := rfl
@[simp] theorem State.setSt_rnd (b : Byte) : (s.setSt b).rnd = s.rnd := rfl
@[simp] theorem State.setSt_report (b : Byte) : (s.setSt b).report = s.report := rfl
@[simp] theorem State.setSt_reported (b : Byte) : (s.setSt b).reported = s.reported := rfl
@[simp] theorem State.setSt_requests (b : Byte) : (s.setSt b).requests = s.requests := rfl
@[simp] theorem State.setSt_drawn (b : Byte) : (s.setSt b).drawn = s.drawn := rfl

@[simp] theorem State.setDisp_v (d : Display) : (s.setDisp d).v = s.v := rfl
@[simp] theorem State.setDisp_i (d : Display) : (s.setDisp d).i = s.i := rfl
@[simp] theorem State.setDisp_pc (d : Display) : (s.setDisp d).pc = s.pc := rfl
@[simp] theorem State.setDisp_stack (d : Display) : (s.setDisp d).stack = s.stack := rfl
@[simp] theorem State.setDisp_disp (d : Display) : (s.setDisp d).disp = d := rfl
@[simp] theorem State.setDisp_dt (d : Display) : (s.setDisp d).dt = s.dt := rfl
@[simp] theorem State.setDisp_st (d : Display) : (s.setDisp d).st = s.st := rfl
@[simp] theorem State.setDisp_quirks (d : Display) : (s.setDisp d).quirks = s.quirks := rfl
@[simp] theorem State.setDisp_halted (d : Display) : (s.setDisp d).halted = s.halted := rfl
@[simp] theorem State.setDisp_mem (d : Display) : (s.setDisp d).mem = s.mem := rfl
@[simp] theorem State.setDisp_keys (d : Display) : (s.setDisp d).keys = s.keys := rfl
@[simp] theorem State.setDisp_rnd (d : Display) : (s.setDisp d).rnd = s.rnd := rfl
@[simp] theorem State.setDisp_report (d : Display) : (s.setDisp d).report = s.report := rfl
@[simp] theorem State.setDisp_reported (d : Display) : (s.setDisp d).reported = s.reported := rfl
@[simp] theorem State.setDisp_requests (d : Display) : (s.setDisp d).requests = s.requests := rfl
@[simp] theorem State.setDisp_drawn (d : Display) : (s.setDisp d).drawn = s.drawn := rfl

@[simp] theorem State.writeByte_v (a : Nat) (b : Byte) : (s.writeByte a b).v = s.v := rfl
@[simp] theorem State.writeByte_i (a : Nat) (b : Byte) : (s.writeByte a b).i = s.i := rfl
@[simp] theorem State.writeByte_pc (a : Nat) (b : Byte) : (s.writeByte a b).pc = s.pc := rfl
@[simp] theorem State.writeByte_stack (a : Nat) (b : Byte) : (s.writeByte a b).stack = s.stack := rfl
@[simp] theorem State.writeByte_disp (a : Nat) (b : Byte) : (s.writeByte a b).disp = s.disp := rfl
@[simp] theorem State.writeByte_dt (a : Nat) (b : Byte) : (s.writeByte a b).dt = s.dt := rfl
@[simp] theorem State.writeByte_st (a : Nat) (b : Byte) : (s.writeByte a b).st = s.st := rfl
@[simp] theorem State.writeByte_quirks (a : Nat) (b : Byte) : (s.writeByte a b).quirks = s.quirks := rfl
@[simp] theorem State.writeByte_halted (a : Nat) (b : Byte) : (s.writeByte a b).halted = s.halted := rfl
@[simp] theorem State.writeByte_mem (a : Nat) (b : Byte) : (s.writeByte a b).mem = s.mem.write a b := rfl
@[simp] theorem State.writeByte_keys (a : Nat) (b : Byte) : (s.writeByte a b).keys = s.keys := rfl
@[simp] theorem State.writeByte_rnd (a : Nat) (b : Byte) : (s.writeByte a b).rnd = s.rnd := rfl
@[simp] theorem State.writeByte_report (a : Nat) (b : Byte) : (s.writeByte a b).report = s.report := rfl
@[simp] theorem State.writeByte_reported (a : Nat) (b : Byte) : (s.writeByte a b).reported = s.reported := rfl
@[simp] theorem State.writeByte_requests (a : Nat) (b : Byte) : (s.writeByte a b).requests = s.requests := rfl
@[simp] theorem State.writeByte_drawn (a : Nat) (b : Byte) : (s.writeByte a b).drawn = s.drawn := rfl

@[simp] theorem State.raise_v (r : Report) : (s.raise r).v = s.v := rfl
@[simp] theorem State.raise_i (r : Report) : (s.raise r).i = s.i := rfl
@[simp] theorem State.raise_pc (r : Report) : (s.raise r).pc = s.pc := rfl
@[simp] theorem State.raise_stack (r : Report) : (s.raise r).stack = s.stack := rfl
@[simp] theorem State.raise_disp (r : Report) : (s.raise r).disp = s.disp := rfl
@[simp] theorem State.raise_dt (r : Report) : (s.raise r).dt = s.dt := rfl
@[simp] theorem State.raise_st (r : Report) : (s.raise r).st = s.st := rfl
@[simp] theorem State.raise_quirks (r : Report) : (s.raise r).quirks = s.quirks := rfl
@[simp] theorem State.raise_halted (r : Report) : (s.raise r).halted = s.halted := rfl
@[simp] theorem State.raise_mem (r : Report) : (s.raise r).mem = s.mem := rfl
@[simp] theorem State.raise_keys (r : Report) : (s.raise r).keys = s.keys := rfl
@[simp] theorem State.raise_rnd (r : Report) : (s.raise r).rnd = s.rnd := rfl
@[simp] theorem State.raise_report (r : Report) : (s.raise r).report = r := rfl
@[simp] theorem State.raise_reported (r : Report) : (s.raise r).reported = r :: s.reported := rfl
@[simp] theorem State.raise_requests (r : Report) : (s.raise r).requests = s.requests := rfl
@[simp] theorem State.raise_drawn (r : Report) : (s.raise r).drawn = s.drawn := rfl

@[simp] theorem State.sample_v (k : BitVec 16) (r : Byte) : (s.sample k r).v = s.v := rfl
@[simp] theorem State.sample_i (k : BitVec 16) (r : Byte) : (s.sample k r).i = s.i := rfl
@[simp] theorem State.sample_pc (k : BitVec 16) (r : Byte) : (s.sample k r).pc = s.pc := rfl
@[simp] theorem State.sample_stack (k : BitVec 16) (r : Byte) : (s.sample k r).stack = s.stack := rfl
@[simp] theorem State.sample_disp (k : BitVec 16) (r : Byte) : (s.sample k r).disp = s.disp := rfl
@[simp] theorem State.sample_dt (k : BitVec 16) (r : Byte) : (s.sample k r).dt = s.dt := rfl
@[simp] theorem State.sample_st (k : BitVec 16) (r : Byte) : (s.sample k r).st = s.st := rfl
@[simp] theorem State.sample_quirks (k : BitVec 16) (r : Byte) : (s.sample k r).quirks = s.quirks := rfl
@[simp] theorem State.sample_halted (k : BitVec 16) (r : Byte) : (s.sample k r).halted = s.halted := rfl
@[simp] theorem State.sample_mem (k : BitVec 16) (r : Byte) : (s.sample k r).mem = s.mem := rfl
@[simp] theorem State.sample_keys (k : BitVec 16) (r : Byte) : (s.sample k r).keys = k := rfl
@[simp] theorem State.sample_rnd (k : BitVec 16) (r : Byte) : (s.sample k r).rnd = r := rfl
@[simp] theorem State.sample_report (k : BitVec 16) (r : Byte) : (s.sample k r).report = .none := rfl
@[simp] theorem State.sample_reported (k : BitVec 16) (r : Byte) : (s.sample k r).reported = s.reported := rfl
@[simp] theorem State.sample_requests (k : BitVec 16) (r : Byte) : (s.sample k r).requests = s.requests := rfl
@[simp] theorem State.sample_drawn (k : BitVec 16) (r : Byte) : (s.sample k r).drawn = s.drawn := rfl

@[simp] theorem State.tick_v : s.tick.v = s.v := rfl
@[simp] theorem State.tick_i : s.tick.i = s.i := rfl
@[simp] theorem State.tick_pc : s.tick.pc = s.pc := rfl
@[simp] theorem State.tick_stack : s.tick.stack = s.stack := rfl
@[simp] theorem State.tick_disp : s.tick.disp = s.disp := rfl
@[simp] theorem State.tick_dt : s.tick.dt = countdown s.dt := rfl
@[simp] theorem State.tick_st : s.tick.st = countdown s.st := rfl
@[simp] theorem State.tick_quirks : s.tick.quirks = s.quirks := rfl
@[simp] theorem State.tick_halted : s.tick.halted = s.halted := rfl
@[simp] theorem State.tick_mem : s.tick.mem = s.mem := rfl
@[simp] theorem State.tick_keys : s.tick.keys = s.keys := rfl
@[simp] theorem State.tick_rnd : s.tick.rnd = s.rnd := rfl
@[simp] theorem State.tick_report : s.tick.report = s.report := rfl
@[simp] theorem State.tick_reported : s.tick.reported = s.reported := rfl
@[simp] theorem State.tick_requests : s.tick.requests = s.requests := rfl
@[simp] theorem State.tick_drawn : s.tick.drawn = s.drawn := rfl

end Sys2Proof.Machine
end

