-- ==== Sys2Proof/Laws/Ops.lean ====
section
/-! SUPPORT. What each shared operation can do, once. -/

namespace Sys2Proof.Machine

variable (s : State)

/-! ### Registers -/

/-- A register read after a write. -/
theorem State.readV_writeV (x y : Nibble) (b : Byte) : (s.writeV x b).readV y = if x = y then b else s.readV y := by
  simp only [State.readV, State.writeV, Vector.getElem_set, BitVec.toNat_inj]

@[simp] theorem State.readV_writeV_self (x : Nibble) (b : Byte) : (s.writeV x b).readV x = b := by
  simp [State.readV_writeV]

theorem State.readV_writeV_other {x y : Nibble} (b : Byte) (h : y ≠ x) : (s.writeV x b).readV y = s.readV y := by
  simp [State.readV_writeV, Ne.symm h]

/-- The flag register after a result and a flag, whatever register took the result (R130). -/
theorem State.writeResultFlag_flag (x : Nibble) (b : Byte) (f : Bool) :
    (s.writeResultFlag x b f).readV 15 = flagByte f := by
  simp [State.writeResultFlag, State.writeFlag]

/-- Every other register after a result and a flag (R130). -/
theorem State.writeResultFlag_readV {x y : Nibble} (b : Byte) (f : Bool) (h : y ≠ 15) :
    (s.writeResultFlag x b f).readV y = if x = y then b else s.readV y := by
  rw [State.writeResultFlag, State.writeFlag, State.readV_writeV_other _ _ h, State.readV_writeV]

/-- Two states with the same reads have the same registers. -/
theorem State.v_ext {s t : State} (h : ∀ x, s.readV x = t.readV x) : s.v = t.v := by
  apply Vector.ext
  intro j hj
  simpa [State.readV, Nat.mod_eq_of_lt hj] using h (BitVec.ofNat 4 j)

/-! ### Program counter, stack, reports -/

/-- A skip changes pc only. -/
theorem State.skipIf_eq (c : Bool) : s.skipIf c = { s with pc := if c then s.pc + 2 else s.pc } := by
  cases c <;> rfl

/-- A pop, or the report of an empty stack. -/
theorem State.popPc_cases :
    (s.stack = [] ∧ s.popPc = s.raise .stackUnderflow) ∨
    ∃ a rest, s.stack = a :: rest ∧ s.popPc = { s with stack := rest, pc := a } := by
  unfold State.popPc
  split
  · exact .inl ⟨‹_›, rfl⟩
  · exact .inr ⟨_, _, ‹_›, rfl⟩

/-- The range check passes and the instruction runs, or fails and only the report changes (R166). -/
theorem State.checked_cases (ok : Bool) (k : State → State) :
    (ok = true ∧ s.checked ok k = k s) ∨
    (ok = false ∧ s.checked ok k = s.raise (.outOfBoundsAddress (firstOutside s.i))) := by
  cases ok
  · exact .inr ⟨rfl, rfl⟩
  · exact .inl ⟨rfl, rfl⟩

theorem inRange_iff (a n : Nat) : inRange a n = true ↔ 1 ≤ n ∧ a + n ≤ 4096 := by
  simp only [inRange, Config.memSize, Bool.and_eq_true, decide_eq_true_eq]
  omega

theorem inRange_false_iff (a n : Nat) : inRange a n = false ↔ n = 0 ∨ 4096 < a + n := by
  rw [← Bool.not_eq_true, inRange_iff]
  omega

/-- The payload of `OutOfBoundsAddress` is `max(a, 0x1000)` (R166, R213). -/
theorem firstOutside_toNat (a : Word) : (firstOutside a).toNat = max a.toNat 0x1000 := by
  unfold firstOutside
  split
  · have h : a.toNat < 4096 := by simpa [BitVec.lt_def] using ‹a < 0x1000›
    simp; omega
  · have h : ¬a.toNat < 4096 := by simpa [BitVec.lt_def] using ‹¬a < 0x1000›
    simp; omega

/-! ### Register blocks -/

/-- A block store changes memory only. -/
theorem State.storeBlock_eq (n : Nat) : s.storeBlock n = { s with mem := (s.storeBlock n).mem } := by
  unfold State.storeBlock
  induction n with
  | zero => rfl
  | succ n ih => rw [List.range_succ, List.foldl_append, List.foldl_cons, List.foldl_nil, ih]; rfl

theorem State.storeBlock_succ_mem (n : Nat) :
    (s.storeBlock (n + 1)).mem = (s.storeBlock n).mem.write (s.i.toNat + n) (s.readV (BitVec.ofNat 4 n)) := by
  simp [State.storeBlock, List.range_succ, State.writeByte]

/-- A block store inside the memory keeps the canonical form. -/
theorem State.storeBlock_wf {n : Nat} (h : s.mem.wf = true) (hn : s.i.toNat + n ≤ 4096) :
    (s.storeBlock n).mem.wf = true := by
  induction n with
  | zero => exact h
  | succ n ih => rw [State.storeBlock_succ_mem]; exact Memory.wf_write (ih (by omega)) _ (by omega)

/-- A block store leaves every address outside `I` to `I + n - 1` alone. -/
theorem State.storeBlock_outside (n : Nat) {a : Nat} (h : a < s.i.toNat ∨ s.i.toNat + n ≤ a) :
    (s.storeBlock n).mem.read a = s.mem.read a := by
  induction n with
  | zero => rfl
  | succ n ih => rw [State.storeBlock_succ_mem, Memory.read_write_other _ _ (by omega), ih (by omega)]

/-- A block store puts `V[j]` at `I + j`. -/
theorem State.storeBlock_read {n : Nat} (h : s.mem.wf = true) (hn : s.i.toNat + n ≤ 4096) {j : Nat} (hj : j < n) :
    (s.storeBlock n).mem.read (s.i.toNat + j) = s.readV (BitVec.ofNat 4 j) := by
  induction n with
  | zero => omega
  | succ n ih =>
    rw [State.storeBlock_succ_mem]
    rcases Nat.lt_succ_iff_lt_or_eq.1 hj with hj | rfl
    · rw [Memory.read_write_other _ _ (by omega), ih (by omega) hj]
    · rw [Memory.read_write_self (State.storeBlock_wf s h (by omega))]

/-- A block load changes the general registers only. -/
theorem State.loadBlock_eq (n : Nat) : s.loadBlock n = { s with v := (s.loadBlock n).v } := by
  unfold State.loadBlock
  induction n with
  | zero => rfl
  | succ n ih => rw [List.range_succ, List.foldl_append, List.foldl_cons, List.foldl_nil, ih]; rfl

theorem State.loadBlock_succ (n : Nat) :
    s.loadBlock (n + 1) = (s.loadBlock n).writeV (BitVec.ofNat 4 n) (s.readByte (s.i.toNat + n)) := by
  simp [State.loadBlock, List.range_succ]

/-- A block load of `n` registers puts `mem[I + j]` into `V[j]` for `j < n` and leaves the others. -/
theorem State.loadBlock_readV {n : Nat} (hn : n ≤ 16) (y : Nibble) :
    (s.loadBlock n).readV y = if y.toNat < n then s.mem.read (s.i.toNat + y.toNat) else s.readV y := by
  induction n with
  | zero => simp [State.loadBlock]
  | succ n ih =>
    rw [State.loadBlock_succ, State.readV_writeV, ih (by omega)]
    have hy : BitVec.ofNat 4 n = y ↔ y.toNat = n := by
      rw [← BitVec.toNat_inj, BitVec.toNat_ofNat, Nat.mod_eq_of_lt (by omega), eq_comm]
    by_cases h : y.toNat = n
    · rw [if_pos (hy.2 h), if_pos (by omega), h]; rfl
    · rw [if_neg (mt hy.1 h)]
      by_cases h2 : y.toNat < n
      · rw [if_pos h2, if_pos (by omega)]
      · rw [if_neg h2, if_neg (by omega)]

/-! ### Display cells -/

/-- A cell after an exclusive-OR into one cell. -/
theorem Display.cell_xorCell (d : Display) (r c r' c' : Nat) (b : Bool) :
    (d.xorCell r c b).cell r' c' =
      if r' < 32 ∧ c' < 64 ∧ r' = r ∧ c' = c then d.cell r' c' ^^ b else d.cell r' c' := by
  unfold Display.xorCell Display.cell
  by_cases h : r < 32 ∧ c < 64
  · by_cases h' : r' < 32 ∧ c' < 64
    · simp only [h, h', and_self, ↓reduceDIte, Vector.getElem_set, true_and]
      by_cases hr : r = r'
      · subst hr
        by_cases hc : c = c'
        · subst hc; simp
        · simp [hc, Ne.symm hc]
      · simp [hr, Ne.symm hr]
    · simp only [h', dite_false]
      rw [if_neg (fun hh => h' ⟨hh.1, hh.2.1⟩)]
  · simp only [h, dite_false]
    rw [if_neg]
    rintro ⟨h1, h2, rfl, rfl⟩
    exact h ⟨h1, h2⟩

/-- Two displays with the same cells are equal. -/
theorem Display.ext_cell {d e : Display} (h : ∀ r c, r < 32 → c < 64 → d.cell r c = e.cell r c) : d = e := by
  apply Vector.ext
  intro r hr
  apply Vector.ext
  intro c hc
  simpa [Display.cell, hr, hc] using h r c hr hc

theorem Display.cell_clear (r c : Nat) : Display.clear.cell r c = false := by
  unfold Display.cell Display.clear
  split <;> simp

end Sys2Proof.Machine
end

