-- ==== Sys2Proof/Laws/Display.lean ====
section
/-! SUPPORT. What drawing a column, a row and a sprite does, cell by cell and for the collision flag (R181). -/

namespace Sys2Proof.Machine

/-- The columns below `n` of a sprite row, drawn from the left: every cell is exclusive-ORed with the bit on it. -/
theorem drawColumns_cell (b : Byte) (py x0 : Nat) (k : Canvas) (n r c : Nat) (hr : r < 32) (hc : c < 64) :
    ((List.range n).foldl (drawColumn b py x0) k).1.cell r c =
      (k.1.cell r c ^^ (decide (r = py ∧ x0 ≤ c ∧ c < x0 + n) && b.getLsbD (7 - (c - x0)))) := by
  induction n with
  | zero => simp [show ¬(x0 ≤ c ∧ c < x0) by omega]
  | succ n ih =>
    rw [List.range_succ, List.foldl_append, List.foldl_cons, List.foldl_nil]
    generalize (List.range n).foldl (drawColumn b py x0) k = k' at ih ⊢
    unfold drawColumn
    split
    · rw [ih]
      congr 3
      exact propext (by omega)
    · simp only [Display.cell_xorCell, hr, hc, true_and]
      by_cases h : r = py ∧ c = x0 + n
      · obtain ⟨rfl, rfl⟩ := h
        simp [ih]
      · rw [if_neg h, ih]
        congr 3
        exact propext (by omega)

/-- The collision flag after the columns below `n`: set before, or a set bit on a cell that was set. -/
theorem drawColumns_hit (b : Byte) (py x0 : Nat) (hp : py < 32) (k : Canvas) (n : Nat) :
    ((List.range n).foldl (drawColumn b py x0) k).2 = true ↔
      k.2 = true ∨ ∃ j, j < n ∧ x0 + j < 64 ∧ b.getLsbD (7 - j) = true ∧ k.1.cell py (x0 + j) = true := by
  induction n with
  | zero => simp
  | succ n ih =>
    have hcell : x0 + n < 64 → ((List.range n).foldl (drawColumn b py x0) k).1.cell py (x0 + n) = k.1.cell py (x0 + n) :=
      fun h => by rw [drawColumns_cell _ _ _ _ _ _ _ hp h]; simp
    rw [List.range_succ, List.foldl_append, List.foldl_cons, List.foldl_nil]
    generalize (List.range n).foldl (drawColumn b py x0) k = k' at ih hcell ⊢
    unfold drawColumn
    split
    · rw [ih]
      refine or_congr_right ⟨fun ⟨j, hj, h⟩ => ⟨j, by omega, h⟩, fun ⟨j, hj, h⟩ => ⟨j, by omega, h⟩⟩
    · rename_i hx
      rw [Bool.or_eq_true, Bool.and_eq_true, ih, hcell (by omega)]
      constructor
      · rintro ((h | ⟨j, hj, h⟩) | h)
        · exact .inl h
        · exact .inr ⟨j, by omega, h⟩
        · exact .inr ⟨n, by omega, by omega, h⟩
      · rintro (h | ⟨j, hj, h⟩)
        · exact .inl (.inl h)
        · rcases Nat.lt_succ_iff_lt_or_eq.1 hj with hj | rfl
          · exact .inl (.inr ⟨j, hj, h⟩)
          · exact .inr ⟨h.2.1, h.2.2⟩

/-- A row of the sprite, cell by cell: a row past 31 touches no cell of the display. -/
theorem drawRow_cell (m : Memory) (i x0 y0 : Nat) (k : Canvas) (j r c : Nat) (hr : r < 32) (hc : c < 64) :
    (drawRow m i x0 y0 k j).1.cell r c =
      (k.1.cell r c ^^ (decide (r = y0 + j ∧ x0 ≤ c ∧ c < x0 + 8) && (m.read (i + j)).getLsbD (7 - (c - x0)))) := by
  unfold drawRow
  split
  · simp [show ¬(r = y0 + j ∧ x0 ≤ c ∧ c < x0 + 8) by omega]
  · rw [drawColumns_cell _ _ _ _ _ _ _ hr hc]

/-- The collision flag after a row of the sprite. -/
theorem drawRow_hit (m : Memory) (i x0 y0 : Nat) (k : Canvas) (j : Nat) :
    (drawRow m i x0 y0 k j).2 = true ↔
      k.2 = true ∨ y0 + j < 32 ∧ ∃ l, l < 8 ∧ x0 + l < 64 ∧ (m.read (i + j)).getLsbD (7 - l) = true ∧
        k.1.cell (y0 + j) (x0 + l) = true := by
  unfold drawRow
  split
  · rw [show (y0 + j < 32) ↔ False by simp; omega]; simp
  · rw [drawColumns_hit _ _ _ (by omega)]; simp [show y0 + j < 32 by omega]

/-- A sprite, cell by cell: every cell is exclusive-ORed with the sprite bit on it. -/
theorem drawSprite_cell (m : Memory) (i x0 y0 n : Nat) (d : Display) (r c : Nat) (hr : r < 32) (hc : c < 64) :
    (drawSprite m i x0 y0 n d).1.cell r c = (d.cell r c ^^ spriteBit m i x0 y0 n r c) := by
  unfold drawSprite
  induction n with
  | zero => simp [spriteBit, show ¬(y0 ≤ r ∧ r < y0 ∧ x0 ≤ c ∧ c < x0 + 8) by omega]
  | succ n ih =>
    rw [List.range_succ, List.foldl_append, List.foldl_cons, List.foldl_nil, drawRow_cell _ _ _ _ _ _ _ _ hr hc, ih]
    unfold spriteBit
    by_cases h : r = y0 + n
    · subst h; simp
    · have e : (y0 ≤ r ∧ r < y0 + (n + 1) ∧ x0 ≤ c ∧ c < x0 + 8) ↔ (y0 ≤ r ∧ r < y0 + n ∧ x0 ≤ c ∧ c < x0 + 8) := by
        omega
      simp only [e]; simp [h]

/-- The collision flag of a sprite: a set sprite bit on a cell that was set. -/
theorem drawSprite_hit (m : Memory) (i x0 y0 n : Nat) (d : Display) :
    (drawSprite m i x0 y0 n d).2 = true ↔
      ∃ r c, r < 32 ∧ c < 64 ∧ d.cell r c = true ∧ spriteBit m i x0 y0 n r c = true := by
  induction n with
  | zero =>
    refine ⟨fun h => Bool.noConfusion h, ?_⟩
    rintro ⟨r, c, _, _, _, h⟩
    simp [spriteBit] at h; omega
  | succ n ih =>
    have hcell := drawSprite_cell m i x0 y0 n d
    unfold drawSprite at ih hcell ⊢
    rw [List.range_succ, List.foldl_append, List.foldl_cons, List.foldl_nil, drawRow_hit, ih]
    constructor
    · rintro (⟨r, c, hr, hc, hd, h⟩ | ⟨hy, l, hl, hx, hb, hd⟩)
      · refine ⟨r, c, hr, hc, hd, ?_⟩
        simp [spriteBit] at h ⊢; exact ⟨by omega, h.2⟩
      · rw [hcell _ _ hy hx, show spriteBit m i x0 y0 n (y0 + n) (x0 + l) = false by simp [spriteBit]] at hd
        refine ⟨y0 + n, x0 + l, hy, hx, by simpa using hd, ?_⟩
        simp [spriteBit, hl]; exact hb
    · rintro ⟨r, c, hr, hc, hd, h⟩
      by_cases h' : r = y0 + n
      · subst h'
        simp [spriteBit] at h
        refine .inr ⟨hr, c - x0, by omega, by omega, h.2, ?_⟩
        rw [show x0 + (c - x0) = c by omega, hcell _ _ hr hc]
        simp [spriteBit, hd]
      · refine .inl ⟨r, c, hr, hc, hd, ?_⟩
        simp [spriteBit] at h ⊢; exact ⟨by omega, h.2⟩

end Sys2Proof.Machine
end

