-- ==== Sys2Proof/Laws/Flags.lean ====
section
/-! SUPPORT. The results and flags of Machine/Flags.lean in plain arithmetic. -/

namespace Sys2Proof.Machine

theorem addResult_toNat (a b : Byte) : (addResult a b).toNat = (a.toNat + b.toNat) % 256 := by
  simp only [addResult, sum9, BitVec.extractLsb'_toNat, BitVec.toNat_add, BitVec.toNat_setWidth, Nat.shiftRight_zero]
  omega

theorem carryOut_iff (a b : Byte) : carryOut a b = true ↔ a.toNat + b.toNat > 255 := by
  have ha := a.isLt
  have hb := b.isLt
  simp only [carryOut, sum9, BitVec.getLsbD, Nat.testBit_eq_decide_div_mod_eq, BitVec.toNat_add, BitVec.toNat_setWidth,
    decide_eq_true_eq]
  omega

theorem subResult_toNat (a b : Byte) : (subResult a b).toNat = (256 + a.toNat - b.toNat) % 256 := by
  have ha := a.isLt
  have hb := b.isLt
  simp only [subResult, BitVec.extractLsb'_toNat, BitVec.toNat_sub, BitVec.toNat_setWidth, Nat.shiftRight_zero]
  omega

theorem notBorrow_iff (a b : Byte) : notBorrow a b = true ↔ b.toNat ≤ a.toNat := by
  unfold notBorrow
  split
  · have h : a.toNat < b.toNat := ‹b > a›
    simp only [Bool.false_eq_true, false_iff]; omega
  · have h : ¬a.toNat < b.toNat := ‹¬b > a›
    simp only [true_iff]; omega

theorem shrResult_toNat (a : Byte) : (shrResult a).toNat = a.toNat / 2 := by
  simp [shrResult, Nat.shiftRight_eq_div_pow]

theorem shrOut_iff (a : Byte) : shrOut a = true ↔ a.toNat % 2 = 1 := by
  simp [shrOut, BitVec.getLsbD, Nat.testBit_eq_decide_div_mod_eq]

theorem shlResult_toNat (a : Byte) : (shlResult a).toNat = a.toNat * 2 % 256 := by
  have ha := a.isLt
  simp only [shlResult, BitVec.extractLsb'_toNat, BitVec.toNat_shiftLeft, BitVec.toNat_setWidth, Nat.shiftRight_zero,
    Nat.shiftLeft_eq]
  omega

theorem shlOut_iff (a : Byte) : shlOut a = true ↔ a.toNat ≥ 128 := by
  have ha := a.isLt
  simp only [shlOut, BitVec.getLsbD, Nat.testBit_eq_decide_div_mod_eq, decide_eq_true_eq]
  omega

theorem indexSum_toNat (i : Word) (b : Byte) : (indexSum i b).toNat = i.toNat + b.toNat := by
  have hi := i.isLt
  have hb := b.isLt
  simp only [indexSum, BitVec.toNat_add, BitVec.toNat_setWidth]
  omega

theorem indexResult_toNat (i : Word) (b : Byte) : (indexResult i b).toNat = (i.toNat + b.toNat) % 4096 := by
  simp only [indexResult, BitVec.toNat_setWidth, BitVec.extractLsb'_toNat, indexSum_toNat, Nat.shiftRight_zero]
  omega

theorem indexOverflow_iff (i : Word) (b : Byte) : indexOverflow i b = true ↔ i.toNat + b.toNat > 0xFFF := by
  simp only [indexOverflow, decide_eq_true_eq, gt_iff_lt, BitVec.lt_def, indexSum_toNat]
  rfl

/-- FX29 gives one of the sixteen glyph addresses (R162). -/
theorem fontAddress_toNat (b : Byte) : (fontAddress b).toNat = 0x050 + 5 * (b.toNat % 16) := by
  simp only [fontAddress, BitVec.toNat_add, BitVec.toNat_mul, BitVec.toNat_setWidth, BitVec.extractLsb'_toNat,
    Nat.shiftRight_zero, show (0x0050 : Word).toNat = 80 from rfl, show (5 : Word).toNat = 5 from rfl]
  omega

end Sys2Proof.Machine
end

