-- ==== Sys2Proof/Laws/PerInstr.lean ====
section
/-! SUPPORT. The per-instruction family Accepted: the word of every instruction is accepted by its row of R87. -/

namespace Sys2Proof.Laws.Accepted

/-- The position of an instruction's row in the opcode map, from 0 (R87). -/
def row : Instr → Nat
  | .cls => 0
  | .ret => 1
  | .jp _ => 2
  | .call _ => 3
  | .seImm _ _ => 4
  | .sneImm _ _ => 5
  | .seReg _ _ _ => 6
  | .ldImm _ _ => 7
  | .addImm _ _ => 8
  | .ldReg _ _ => 9
  | .or _ _ => 10
  | .and _ _ => 11
  | .xor _ _ => 12
  | .addReg _ _ => 13
  | .sub _ _ => 14
  | .shr _ _ => 15
  | .subn _ _ => 16
  | .shl _ _ => 17
  | .sneReg _ _ _ => 18
  | .ldI _ => 19
  | .jpV0 _ => 20
  | .rnd _ _ => 21
  | .drw _ _ _ => 22
  | .skp _ => 23
  | .sknp _ => 24
  | .ldVxDt _ => 25
  | .ldVxK _ => 26
  | .ldDtVx _ => 27
  | .ldStVx _ => 28
  | .addI _ => 29
  | .ldF _ => 30
  | .ldB _ => 31
  | .stRegs _ => 32
  | .ldRegs _ => 33

/-- The row at the instruction's position accepts the instruction's word. -/
def Statement (i : Instr) : Prop := (opcodeRows[row i]?).map (fun r => r.accepts (encode i)) = some true

theorem cls : Statement (.cls) := rfl

theorem ret : Statement (.ret) := rfl

theorem jp (nnn : Addr) : Statement (.jp nnn) := by
  refine congrArg some ((accepts_F000 _ 1#4 _).trans (decide_eq_true ?_))
  exact opG_nnn _ _

theorem call (nnn : Addr) : Statement (.call nnn) := by
  refine congrArg some ((accepts_F000 _ 2#4 _).trans (decide_eq_true ?_))
  exact opG_nnn _ _

theorem seImm (x : Nibble) (nn : Byte) : Statement (.seImm x nn) := by
  refine congrArg some ((accepts_F000 _ 3#4 _).trans (decide_eq_true ?_))
  exact opG_xnn _ _ _

theorem sneImm (x : Nibble) (nn : Byte) : Statement (.sneImm x nn) := by
  refine congrArg some ((accepts_F000 _ 4#4 _).trans (decide_eq_true ?_))
  exact opG_xnn _ _ _

theorem seReg (x : Nibble) (y : Nibble) (n : Nibble) : Statement (.seReg x y n) := by
  refine congrArg some ((accepts_F000 _ 5#4 _).trans (decide_eq_true ?_))
  exact opG_xyn _ _ _ _

theorem ldImm (x : Nibble) (nn : Byte) : Statement (.ldImm x nn) := by
  refine congrArg some ((accepts_F000 _ 6#4 _).trans (decide_eq_true ?_))
  exact opG_xnn _ _ _

theorem addImm (x : Nibble) (nn : Byte) : Statement (.addImm x nn) := by
  refine congrArg some ((accepts_F000 _ 7#4 _).trans (decide_eq_true ?_))
  exact opG_xnn _ _ _

theorem ldReg (x : Nibble) (y : Nibble) : Statement (.ldReg x y) := by
  refine congrArg some ((accepts_F00F _ 8#4 0#4 _).trans (decide_eq_true ?_))
  exact ⟨opG_xyn _ _ _ _, opN_xyn _ _ _ _⟩

theorem or (x : Nibble) (y : Nibble) : Statement (.or x y) := by
  refine congrArg some ((accepts_F00F _ 8#4 1#4 _).trans (decide_eq_true ?_))
  exact ⟨opG_xyn _ _ _ _, opN_xyn _ _ _ _⟩

theorem and (x : Nibble) (y : Nibble) : Statement (.and x y) := by
  refine congrArg some ((accepts_F00F _ 8#4 2#4 _).trans (decide_eq_true ?_))
  exact ⟨opG_xyn _ _ _ _, opN_xyn _ _ _ _⟩

theorem xor (x : Nibble) (y : Nibble) : Statement (.xor x y) := by
  refine congrArg some ((accepts_F00F _ 8#4 3#4 _).trans (decide_eq_true ?_))
  exact ⟨opG_xyn _ _ _ _, opN_xyn _ _ _ _⟩

theorem addReg (x : Nibble) (y : Nibble) : Statement (.addReg x y) := by
  refine congrArg some ((accepts_F00F _ 8#4 4#4 _).trans (decide_eq_true ?_))
  exact ⟨opG_xyn _ _ _ _, opN_xyn _ _ _ _⟩

theorem sub (x : Nibble) (y : Nibble) : Statement (.sub x y) := by
  refine congrArg some ((accepts_F00F _ 8#4 5#4 _).trans (decide_eq_true ?_))
  exact ⟨opG_xyn _ _ _ _, opN_xyn _ _ _ _⟩

theorem shr (x : Nibble) (y : Nibble) : Statement (.shr x y) := by
  refine congrArg some ((accepts_F00F _ 8#4 6#4 _).trans (decide_eq_true ?_))
  exact ⟨opG_xyn _ _ _ _, opN_xyn _ _ _ _⟩

theorem subn (x : Nibble) (y : Nibble) : Statement (.subn x y) := by
  refine congrArg some ((accepts_F00F _ 8#4 7#4 _).trans (decide_eq_true ?_))
  exact ⟨opG_xyn _ _ _ _, opN_xyn _ _ _ _⟩

theorem shl (x : Nibble) (y : Nibble) : Statement (.shl x y) := by
  refine congrArg some ((accepts_F00F _ 8#4 14#4 _).trans (decide_eq_true ?_))
  exact ⟨opG_xyn _ _ _ _, opN_xyn _ _ _ _⟩

theorem sneReg (x : Nibble) (y : Nibble) (n : Nibble) : Statement (.sneReg x y n) := by
  refine congrArg some ((accepts_F000 _ 9#4 _).trans (decide_eq_true ?_))
  exact opG_xyn _ _ _ _

theorem ldI (nnn : Addr) : Statement (.ldI nnn) := by
  refine congrArg some ((accepts_F000 _ 10#4 _).trans (decide_eq_true ?_))
  exact opG_nnn _ _

theorem jpV0 (nnn : Addr) : Statement (.jpV0 nnn) := by
  refine congrArg some ((accepts_F000 _ 11#4 _).trans (decide_eq_true ?_))
  exact opG_nnn _ _

theorem rnd (x : Nibble) (nn : Byte) : Statement (.rnd x nn) := by
  refine congrArg some ((accepts_F000 _ 12#4 _).trans (decide_eq_true ?_))
  exact opG_xnn _ _ _

theorem drw (x : Nibble) (y : Nibble) (n : Nibble) : Statement (.drw x y n) := by
  refine congrArg some ((accepts_F000 _ 13#4 _).trans (decide_eq_true ?_))
  exact opG_xyn _ _ _ _

theorem skp (x : Nibble) : Statement (.skp x) := by
  refine congrArg some ((accepts_F0FF _ 14#4 158#8 _).trans (decide_eq_true ?_))
  exact ⟨opG_xnn _ _ _, opNN_xnn _ _ _⟩

theorem sknp (x : Nibble) : Statement (.sknp x) := by
  refine congrArg some ((accepts_F0FF _ 14#4 161#8 _).trans (decide_eq_true ?_))
  exact ⟨opG_xnn _ _ _, opNN_xnn _ _ _⟩

theorem ldVxDt (x : Nibble) : Statement (.ldVxDt x) := by
  refine congrArg some ((accepts_F0FF _ 15#4 7#8 _).trans (decide_eq_true ?_))
  exact ⟨opG_xnn _ _ _, opNN_xnn _ _ _⟩

theorem ldVxK (x : Nibble) : Statement (.ldVxK x) := by
  refine congrArg some ((accepts_F0FF _ 15#4 10#8 _).trans (decide_eq_true ?_))
  exact ⟨opG_xnn _ _ _, opNN_xnn _ _ _⟩

theorem ldDtVx (x : Nibble) : Statement (.ldDtVx x) := by
  refine congrArg some ((accepts_F0FF _ 15#4 21#8 _).trans (decide_eq_true ?_))
  exact ⟨opG_xnn _ _ _, opNN_xnn _ _ _⟩

theorem ldStVx (x : Nibble) : Statement (.ldStVx x) := by
  refine congrArg some ((accepts_F0FF _ 15#4 24#8 _).trans (decide_eq_true ?_))
  exact ⟨opG_xnn _ _ _, opNN_xnn _ _ _⟩

theorem addI (x : Nibble) : Statement (.addI x) := by
  refine congrArg some ((accepts_F0FF _ 15#4 30#8 _).trans (decide_eq_true ?_))
  exact ⟨opG_xnn _ _ _, opNN_xnn _ _ _⟩

theorem ldF (x : Nibble) : Statement (.ldF x) := by
  refine congrArg some ((accepts_F0FF _ 15#4 41#8 _).trans (decide_eq_true ?_))
  exact ⟨opG_xnn _ _ _, opNN_xnn _ _ _⟩

theorem ldB (x : Nibble) : Statement (.ldB x) := by
  refine congrArg some ((accepts_F0FF _ 15#4 51#8 _).trans (decide_eq_true ?_))
  exact ⟨opG_xnn _ _ _, opNN_xnn _ _ _⟩

theorem stRegs (x : Nibble) : Statement (.stRegs x) := by
  refine congrArg some ((accepts_F0FF _ 15#4 85#8 _).trans (decide_eq_true ?_))
  exact ⟨opG_xnn _ _ _, opNN_xnn _ _ _⟩

theorem ldRegs (x : Nibble) : Statement (.ldRegs x) := by
  refine congrArg some ((accepts_F0FF _ 15#4 101#8 _).trans (decide_eq_true ?_))
  exact ⟨opG_xnn _ _ _, opNN_xnn _ _ _⟩

end Sys2Proof.Laws.Accepted
end

