-- ==== Sys2Proof/Laws/Step.lean ====
section
/-! SUPPORT. What serving a request can do, once. -/

namespace Sys2Proof.Machine

/-- A run of one step more, when the first step answers a next state. -/
theorem run_succ_of_next {M : Host.Core} {n : Nat} {s t : M.State} (h : M.step s = .next t) :
    M.run (n + 1) s = M.run n t := by
  simp only [Host.Core.run, h]

/-- A Step is served by `fetchExecute`, after its inputs are sampled. -/
theorem step_of_nextIsStep {s u : State} {k : BitVec 16} {r : Byte} (h : s.NextIsStep k r u) :
    step s = fetchExecute (u.sample k r) := by
  rcases h with ⟨rest, h, rfl⟩ | ⟨h | ⟨⟨rest, h⟩, hf⟩, rfl, rfl, rfl⟩
  · simp only [step, serve, h, runStep]
  · simp only [step, serve, h, runStep]
  · simp only [step, serve, h, serveFree, hf, runStep, Bool.false_eq_true, if_false]

theorem step_of_tick {s : State} {rest : List Request} (h : s.requests = .tick :: rest) :
    step s = .next (State.tick { s with requests := rest }) := by
  simp only [step, serve, h]

theorem step_of_reset {s : State} {inp : ResetInputs} {rest : List Request} (h : s.requests = .reset inp :: rest) :
    step s = reset inp { s with requests := rest } := by
  simp only [step, serve, h]

/-- An open-ended host's Tick. -/
theorem step_of_free_tick {s : State} {rest : List Request} (h : s.requests = .free :: rest)
    (hf : Config.freeTick s.drawn = true) : step s = .next (State.tick { s with drawn := s.drawn + 1 }) := by
  simp only [step, serve, h, serveFree, hf, if_true]

/-- What the block does next: a Step, a listed Tick, an open-ended host's Tick, a Reset. -/
theorem step_cases (s : State) :
    (∃ k r u, s.NextIsStep k r u ∧ step s = fetchExecute (u.sample k r)) ∨
    (∃ rest, s.requests = .tick :: rest ∧ step s = .next (State.tick { s with requests := rest })) ∨
    (∃ rest, s.requests = .free :: rest ∧ Config.freeTick s.drawn = true ∧
      step s = .next (State.tick { s with drawn := s.drawn + 1 })) ∨
    (∃ inp rest, s.requests = .reset inp :: rest ∧ step s = reset inp { s with requests := rest }) := by
  have isStep : ∀ {k r u}, s.NextIsStep k r u → ∃ k r u, s.NextIsStep k r u ∧ step s = fetchExecute (u.sample k r) :=
    fun h => ⟨_, _, _, h, step_of_nextIsStep h⟩
  obtain ⟨qs, h⟩ : ∃ qs, s.requests = qs := ⟨_, rfl⟩
  cases qs with
  | nil => exact .inl (isStep (.inr ⟨.inl h, rfl, rfl, rfl⟩))
  | cons q rest =>
    cases q with
    | step k r => exact .inl (isStep (.inl ⟨rest, h, rfl⟩))
    | tick => exact .inr (.inl ⟨rest, h, step_of_tick h⟩)
    | reset inp => exact .inr (.inr (.inr ⟨inp, rest, h, step_of_reset h⟩))
    | free =>
      cases hf : Config.freeTick s.drawn with
      | false => exact .inl (isStep (.inr ⟨.inr ⟨⟨rest, h⟩, hf⟩, rfl, rfl, rfl⟩))
      | true => exact .inr (.inr (.inl ⟨rest, h, rfl, step_of_free_tick h hf⟩))

/-- What a Step with sampled inputs does: the fetch fails, the word is unmatched, or its instruction executes. -/
theorem fetchExecute_cases (s : State) :
    (inRange s.pc.toNat 2 = false ∧ fetchExecute s = .next (s.raise (.outOfBoundsAddress (firstOutside s.pc)))) ∨
    (inRange s.pc.toNat 2 = true ∧ decodeWord s.fetchWord = none ∧
      fetchExecute s = .next (s.advance.raise (.unmatchedOpcode s.fetchWord))) ∨
    (∃ i, inRange s.pc.toNat 2 = true ∧ decodeWord s.fetchWord = some i ∧ fetchExecute s = exec i s.advance) := by
  unfold fetchExecute
  cases hr : inRange s.pc.toNat 2 with
  | false => exact .inl ⟨rfl, rfl⟩
  | true =>
    cases hd : decodeWord s.fetchWord with
    | none => exact .inr (.inl ⟨rfl, rfl, rfl⟩)
    | some i => exact .inr (.inr ⟨i, rfl, rfl, rfl⟩)

/-- Reset with a program that fits, or its refusal (R54). -/
theorem reset_cases (inp : ResetInputs) (s : State) :
    (inp.program.length ≤ 3584 ∧ reset inp s = .next (s.resetWith inp)) ∨
    (3584 < inp.program.length ∧ reset inp s = .refused (.programTooLong inp.program.length)) := by
  unfold reset ResetInputs.wf
  by_cases h : inp.program.length ≤ 3584
  · exact .inl ⟨h, by simp [Config.maxProgram, h]⟩
  · exact .inr ⟨by omega, by simp [Config.maxProgram, h]⟩

end Sys2Proof.Machine
end

