-- ==== Sys2Proof/Tests/Slice0.lean ====
section
/-! SUPPORT. Tests: ill-formed terms refused, decoding of words written from the spec, one-step vectors of
95_test_vectors.md, and states that meet the hypotheses of each statement. -/

namespace Sys2Proof.Tests

open Sys2Proof.Machine

/-! ### Helpers -/

/-- The next state of an outcome, the reset state for a stop. -/
def after : Host.Outcome State Fault Refusal → State
  | .next t => t
  | _ => State.reset

/-- The reset state with these registers. -/
def regs (l : List (Nibble × Byte)) : State := l.foldl (fun s p => s.writeV p.1 p.2) State.reset

/-- The reset state with these bytes from `a` on and `I` = `a`. -/
def bytesAt (a : Word) (bs : List Byte) (s : State) : State :=
  { s with i := a, mem := s.mem.writeBytes a.toNat bs }

/-- One Step of the word placed at pc, with these inputs. -/
def ran (w : Nat) (s : State) (k : BitVec 16 := 0) (r : Byte := 0) : State :=
  after (step { s.withFetchWord 16 w with requests := [.step k r] })

/-- Bits of these display rows and columns set. -/
def lit (s : State) (l : List (Nat × Nat)) : State :=
  { s with disp := l.foldl (fun d p => d.xorCell p.1 p.2 true) s.disp }

/-- The cells of these rows and columns. -/
def cells (s : State) (l : List (Nat × Nat)) : List Bool := l.map (fun p => s.disp.cell p.1 p.2)

/-! ### Ill-formed terms are refused -/

theorem test_wf_seReg : Instr.wf (.seReg 1 2 0xF) = false ∧ Instr.wf (.seReg 1 2 0) = true := by decide

theorem test_wf_sneReg : Instr.wf (.sneReg 1 2 7) = false ∧ Instr.wf (.sneReg 1 2 0) = true := by decide

theorem test_wf_program : ResetInputs.wf ⟨0, defaultFont, List.replicate 3585 0⟩ = false := by
  unfold ResetInputs.wf
  rw [List.length_replicate]
  decide

theorem test_wf_request : Request.wf (.reset ⟨0, defaultFont, List.replicate 3585 0⟩) = false :=
  test_wf_program

theorem test_wf_memory : Memory.wf [(0x301, 1), (0x300, 1)] = false ∧ Memory.wf [(0x300, 1), (0x300, 2)] = false ∧
    Memory.wf [(0x1000, 1)] = false ∧ Memory.wf [(0x300, 0)] = false ∧ Memory.wf [(0x050, 0xF0)] = false ∧
    Memory.wf [(0x050, 0), (0x300, 1)] = true := by decide

/-! ### Decoding: words written from R87's encodings, every row -/

theorem test_decode_group0 : decodeWord 0x00E0 = some .cls ∧ decodeWord 0x00EE = some .ret ∧
    decodeWord 0x0000 = none ∧ decodeWord 0x0123 = none ∧ decodeWord 0x00FF = none := by decide

theorem test_decode_jumps : decodeWord 0x1ABC = some (.jp 0xABC) ∧ decodeWord 0x2FFE = some (.call 0xFFE) ∧
    decodeWord 0xB2FC = some (.jpV0 0x2FC) := by decide

theorem test_decode_skips : decodeWord 0x3F01 = some (.seImm 15 0x01) ∧ decodeWord 0x4A55 = some (.sneImm 10 0x55) ∧
    decodeWord 0x5AAF = some (.seReg 10 10 15) ∧ decodeWord 0x9127 = some (.sneReg 1 2 7) := by decide

theorem test_decode_immediates : decodeWord 0x6FAB = some (.ldImm 15 0xAB) ∧
    decodeWord 0x7180 = some (.addImm 1 0x80) := by decide

theorem test_decode_group8 : decodeWord 0x8AB0 = some (.ldReg 10 11) ∧ decodeWord 0x8121 = some (.or 1 2) ∧
    decodeWord 0x8122 = some (.and 1 2) ∧ decodeWord 0x8123 = some (.xor 1 2) ∧ decodeWord 0x8124 = some (.addReg 1 2) ∧
    decodeWord 0x8125 = some (.sub 1 2) ∧ decodeWord 0x8F26 = some (.shr 15 2) ∧ decodeWord 0x8127 = some (.subn 1 2) ∧
    decodeWord 0x81FE = some (.shl 1 15) ∧ decodeWord 0x8128 = none ∧ decodeWord 0x812F = none := by decide

theorem test_decode_index : decodeWord 0xAFFF = some (.ldI 0xFFF) ∧ decodeWord 0xFF1E = some (.addI 15) ∧
    decodeWord 0xF129 = some (.ldF 1) ∧ decodeWord 0xF133 = some (.ldB 1) ∧ decodeWord 0xF355 = some (.stRegs 3) ∧
    decodeWord 0xF265 = some (.ldRegs 2) := by decide

theorem test_decode_display : decodeWord 0xD12F = some (.drw 1 2 15) := by decide

theorem test_decode_inputs : decodeWord 0xC1F0 = some (.rnd 1 0xF0) ∧ decodeWord 0xE19E = some (.skp 1) ∧
    decodeWord 0xE1A1 = some (.sknp 1) ∧ decodeWord 0xF10A = some (.ldVxK 1) ∧ decodeWord 0xE19F = none ∧
    decodeWord 0xE10E = none := by decide

theorem test_decode_timers : decodeWord 0xF107 = some (.ldVxDt 1) ∧ decodeWord 0xF115 = some (.ldDtVx 1) ∧
    decodeWord 0xF118 = some (.ldStVx 1) ∧ decodeWord 0xF175 = none ∧ decodeWord 0xF100 = none := by decide

/-- The first byte is the more significant one (R81); one byte is too short; the table's numbering has bit 0 lowest. -/
theorem test_decode_bytes : decode [0x6A, 0x2F, 0x77] = .instr (.ldImm 10 0x2F) [0x77] ∧ decode [0x6A] = .tooShort ∧
    decode [0x81, 0x28] = .unmatched 0x8128 [] ∧ decodeTableWord 16 0x6A2F = some (.ldImm 10 0x2F) := by decide

theorem test_encode : encode (.drw 0 1 3) = 0xD013 ∧ encode (.ldImm 10 0x2F) = 0x6A2F ∧ encode (.shr 1 2) = 0x8126 ∧
    encode (.sneReg 1 2 7) = 0x9127 ∧ encodeBytes (.ldRegs 2) = [0xF2, 0x65] := by decide

/-! ### The Step, Tick, Reset -/

/-- FE1: the last legal fetch address. -/
theorem test_step_last_address : (ran 0x6000 { State.reset with pc := 0x0FFE }).pc = 0x1000 := by decide

/-- FE2, FE4: nothing changes; the payload is the lowest address outside. -/
theorem test_step_fetch_outside :
    after (step { State.reset with pc := 0x0FFF, requests := [.step 0 0] }) =
      { State.reset with
        pc := 0x0FFF, report := .outOfBoundsAddress 0x1000, reported := [.outOfBoundsAddress 0x1000] } ∧
    (after (step { State.reset with pc := 0x10FE, requests := [.step 0 0] })).report = .outOfBoundsAddress 0x10FE := by
  decide

/-- FE5, second Step: a word at an odd address. -/
theorem test_step_odd_address : (ran 0x6A77 { State.reset with pc := 0x0203 }).readV 10 = 0x77 ∧
    (ran 0x6A77 { State.reset with pc := 0x0203 }).pc = 0x0205 := by decide

/-- UM5: a reported no-op. -/
theorem test_step_unmatched : (ran 0x812F State.reset).pc = 0x0202 ∧
    (ran 0x812F State.reset).report = .unmatchedOpcode 0x812F := by decide

/-- The instruction placed at reset runs as the first one, whatever the free inputs. -/
theorem test_withFetchWord : (after (step (State.reset.withFetchWord 16 0x6A2F))).readV 10 = 0x2F := by decide

/-- The table's word runs also where pc cannot be fetched and where a Tick comes first. -/
theorem test_withFetchWord_moves :
    (after (step (State.withFetchWord { State.reset with pc := 0x0FFF, requests := [.tick] } 16 0x6A2F))).readV 10 =
      0x2F := by decide

/-- It runs first also where the host is open-ended, after which the host is open-ended again. -/
theorem test_withFetchWord_free :
    (after (step (State.withFetchWord { State.reset with requests := [.free] } 16 0x6A2F))).readV 10 = 0x2F ∧
    (after (step (State.withFetchWord { State.reset with requests := [.free] } 16 0x6A2F))).requests = [.free] := by decide

/-- TI4. -/
theorem test_tick : (State.tick { State.reset with dt := 255, st := 1 }).dt = 254 ∧
    (State.tick { State.reset with dt := 255, st := 1 }).st = 0 := by decide

/-- TI3. -/
theorem test_tick_zero : (State.tick State.reset).dt = 0 := by decide

/-- Reset with the default font and no program leaves memory with nothing listed, the form of State.reset. -/
theorem test_reset_image : resetImage ⟨0, defaultFont, []⟩ = [] := by decide

/-- A program byte at 0x200, and the quirk bits from the input. -/
theorem test_reset_program :
    (after (step { regs [(1, 9)] with requests := [.reset ⟨0b101, defaultFont, [0x60, 0x05]⟩] })).mem.read 0x201 = 5 ∧
    (after (step { regs [(1, 9)] with requests := [.reset ⟨0b101, defaultFont, [0x60, 0x05]⟩] })).quirks =
      ⟨true, false, true⟩ ∧
    (after (step { regs [(1, 9)] with requests := [.reset ⟨0b101, defaultFont, [0x60, 0x05]⟩] })).readV 1 = 0 := by
  decide

/-- R53's first and last glyph rows, and the zero fill around them. -/
theorem test_font : Memory.read [] 0x050 = 0xF0 ∧ Memory.read [] 0x09B = 0xF0 ∧ Memory.read [] 0x09F = 0x80 ∧
    Memory.read [] 0x04F = 0 ∧ Memory.read [] 0x0A0 = 0 := by decide

/-! ### Instructions: the vectors of 95_test_vectors.md -/

/-- CF1. -/
theorem test_ret : (ran 0x00EE { State.reset with stack := [0x0300, 0x0206] }).pc = 0x0300 ∧
    (ran 0x00EE { State.reset with stack := [0x0300, 0x0206] }).stack = [0x0206] := by decide

/-- CF2. -/
theorem test_ret_empty : (ran 0x00EE State.reset).pc = 0x0202 ∧ (ran 0x00EE State.reset).report = .stackUnderflow := by
  decide

/-- CF3. -/
theorem test_jp_self : (ran 0x1200 State.reset).pc = 0x0200 ∧ (ran 0x1200 State.reset).halted = true := by decide

/-- CF4. -/
theorem test_jp : (ran 0x1ABC State.reset).pc = 0x0ABC ∧ (ran 0x1ABC State.reset).halted = false := by decide

/-- CF6. -/
theorem test_call : (ran 0x2FFE { State.reset with pc := 0x0FFE }).stack = [0x1000] ∧
    (ran 0x2FFE { State.reset with pc := 0x0FFE }).pc = 0x0FFE ∧
    (ran 0x2FFE { State.reset with pc := 0x0FFE }).halted = false := by decide

/-- CF7, CF8. -/
theorem test_seImm : (ran 0x3F01 (regs [(15, 1)])).pc = 0x0204 ∧ (ran 0x3F01 State.reset).pc = 0x0202 := by decide

/-- CF10, CF11. -/
theorem test_sneImm : (ran 0x4A55 (regs [(10, 0x55)])).pc = 0x0202 ∧ (ran 0x4A55 (regs [(10, 0x54)])).pc = 0x0204 := by
  decide

/-- CF13, CF14. -/
theorem test_seReg : (ran 0x5120 (regs [(1, 1), (2, 2)])).pc = 0x0202 ∧
    (ran 0x512F (regs [(1, 3), (2, 3)])).pc = 0x0204 := by decide

/-- CF15, CF16. -/
theorem test_sneReg : (ran 0x9AA0 (regs [(10, 9)])).pc = 0x0202 ∧
    (ran 0x9127 (regs [(1, 1), (2, 2)])).pc = 0x0204 := by decide

/-- CF17: not masked. -/
theorem test_jpV0_top : (ran 0xBFFF (regs [(0, 0xFF)])).pc = 0x10FE := by decide

/-- S8 (b): the quirk chooses the offset register. -/
theorem test_jpV0_quirk :
    (ran 0xB2FC { regs [(2, 4), (0, 0x10)] with quirks := ⟨false, false, true⟩ }).pc = 0x0300 ∧
    (ran 0xB2FC (regs [(2, 4), (0, 0x10)])).pc = 0x030C := by decide

/-- AL1. -/
theorem test_ldImm : (ran 0x6FAB State.reset).readV 15 = 0xAB := by decide

/-- AL4, AL3: wraps, no carry. -/
theorem test_addImm : (ran 0x7180 (regs [(1, 0x80)])).readV 1 = 0 ∧ (ran 0x7180 (regs [(1, 0x80)])).readV 15 = 0 ∧
    (ran 0x7F01 (regs [(15, 0xFF)])).readV 15 = 0 := by decide

/-- AL5. -/
theorem test_ldReg : (ran 0x8AB0 (regs [(10, 1), (11, 0xEE)])).readV 10 = 0xEE ∧
    (ran 0x8AB0 (regs [(10, 1), (11, 0xEE)])).readV 11 = 0xEE := by decide

/-- AL6. -/
theorem test_or : (ran 0x8121 (regs [(1, 0xF0), (2, 0x0F), (15, 7)])).readV 1 = 0xFF ∧
    (ran 0x8121 (regs [(1, 0xF0), (2, 0x0F), (15, 7)])).readV 15 = 7 := by decide

/-- AL8. -/
theorem test_and : (ran 0x8122 (regs [(1, 0xF0), (2, 0x3C), (15, 7)])).readV 1 = 0x30 ∧
    (ran 0x8122 (regs [(1, 0xF0), (2, 0x3C), (15, 7)])).readV 15 = 7 := by decide

/-- AL9. -/
theorem test_xor : (ran 0x8123 (regs [(1, 0xF0), (2, 0x3C), (15, 7)])).readV 1 = 0xCC ∧
    (ran 0x8123 (regs [(1, 0xF0), (2, 0x3C), (15, 7)])).readV 15 = 7 := by decide

/-- AL12. -/
theorem test_addReg : (ran 0x8124 (regs [(1, 0xFF), (2, 0xFF)])).readV 1 = 0xFE ∧
    (ran 0x8124 (regs [(1, 0xFF), (2, 0xFF)])).readV 15 = 1 := by decide

/-- AL15, AL17: the flag register as an operand. -/
theorem test_addReg_flag : (ran 0x8F14 (regs [(15, 0xF0), (1, 0x20)])).readV 15 = 1 ∧
    (ran 0x81F4 (regs [(1, 0xFF), (15, 1)])).readV 1 = 0 ∧ (ran 0x81F4 (regs [(1, 0xFF), (15, 1)])).readV 15 = 1 := by
  decide

/-- AL18. -/
theorem test_sub : (ran 0x8125 (regs [(1, 0), (2, 1)])).readV 1 = 0xFF ∧
    (ran 0x8125 (regs [(1, 0), (2, 1)])).readV 15 = 0 := by decide

/-- AL19, AL22. -/
theorem test_sub_equal : (ran 0x8125 (regs [(1, 0x33), (2, 0x33)])).readV 15 = 1 ∧
    (ran 0x8F15 (regs [(15, 5), (1, 3)])).readV 15 = 1 := by decide

/-- AL25. -/
theorem test_subn : (ran 0x8127 (regs [(1, 1), (2, 0xFF)])).readV 1 = 0xFE ∧
    (ran 0x8127 (regs [(1, 1), (2, 0xFF)])).readV 15 = 1 := by decide

/-- AL26. -/
theorem test_subn_flag : (ran 0x8F17 (regs [(15, 5), (1, 3)])).readV 15 = 0 := by decide

/-- AL27, AL28. -/
theorem test_shr : (ran 0x8126 { regs [(1, 0xFF), (2, 2)] with quirks := ⟨true, false, false⟩ }).readV 1 = 0x7F ∧
    (ran 0x8126 { regs [(1, 0xFF), (2, 2)] with quirks := ⟨true, false, false⟩ }).readV 15 = 1 ∧
    (ran 0x8126 (regs [(1, 0xFF), (2, 2)])).readV 1 = 1 ∧ (ran 0x8126 (regs [(1, 0xFF), (2, 2)])).readV 15 = 0 := by
  decide

/-- AL31, AL32. -/
theorem test_shr_flag : (ran 0x8F26 { regs [(15, 3), (2, 4)] with quirks := ⟨true, false, false⟩ }).readV 15 = 1 ∧
    (ran 0x8F26 (regs [(15, 3), (2, 4)])).readV 15 = 0 := by decide

/-- AL29, AL30. -/
theorem test_shl : (ran 0x812E { regs [(1, 0xFF), (2, 2)] with quirks := ⟨true, false, false⟩ }).readV 1 = 0xFE ∧
    (ran 0x812E { regs [(1, 0xFF), (2, 2)] with quirks := ⟨true, false, false⟩ }).readV 15 = 1 ∧
    (ran 0x812E (regs [(1, 0xFF), (2, 2)])).readV 1 = 4 ∧ (ran 0x812E (regs [(1, 0xFF), (2, 2)])).readV 15 = 0 := by
  decide

/-- AL34: the source is the old flag register. -/
theorem test_shl_flag : (ran 0x81FE (regs [(15, 0x80), (1, 1)])).readV 1 = 0 ∧
    (ran 0x81FE (regs [(15, 0x80), (1, 1)])).readV 15 = 1 := by decide

/-- IX1. -/
theorem test_ldI : (ran 0xAFFF State.reset).i = 0x0FFF := by decide

/-- S6, IX4. -/
theorem test_addI : (ran 0xF11E { regs [(1, 5)] with i := 0x0FFE }).i = 3 ∧
    (ran 0xF11E { regs [(1, 5)] with i := 0x0FFE }).readV 15 = 1 ∧
    (ran 0xF11E { regs [(1, 0xFF)] with i := 0x0FFF }).i = 0x00FE := by decide

/-- IX3, IX6. -/
theorem test_addI_flag : (ran 0xF11E { regs [] with i := 0x0FFF }).readV 15 = 0 ∧
    (ran 0xFF1E { regs [(15, 0xFF)] with i := 0x0100 }).i = 0x01FF ∧
    (ran 0xFF1E { regs [(15, 0xFF)] with i := 0x0100 }).readV 15 = 0 := by decide

/-- IX8, IX9. -/
theorem test_ldF : (ran 0xF129 (regs [(1, 0x1A)])).i = 0x0082 ∧ (ran 0xF129 (regs [(1, 0x0F)])).i = 0x009B := by decide

/-- IX13. -/
theorem test_ldB : (ran 0xF133 { regs [(1, 0x7B)] with i := 0x0FFD }).mem.read 0xFFD = 1 ∧
    (ran 0xF133 { regs [(1, 0x7B)] with i := 0x0FFD }).mem.read 0xFFE = 2 ∧
    (ran 0xF133 { regs [(1, 0x7B)] with i := 0x0FFD }).mem.read 0xFFF = 3 := by decide

/-- IX14. -/
theorem test_ldB_outside : (ran 0xF133 { regs [(1, 0x7B)] with i := 0x0FFE }).mem.read 0xFFE = 0 ∧
    (ran 0xF133 { regs [(1, 0x7B)] with i := 0x0FFE }).report = .outOfBoundsAddress 0x1000 := by decide

/-- IX16, IX17. -/
theorem test_stRegs :
    (ran 0xF355 { regs [(0, 1), (1, 2), (2, 3), (3, 4), (4, 5)] with i := 0x0400 }).mem.read 0x403 = 4 ∧
    (ran 0xF355 { regs [(0, 1), (1, 2), (2, 3), (3, 4), (4, 5)] with i := 0x0400 }).mem.read 0x404 = 0 ∧
    (ran 0xF355 { regs [(0, 1), (1, 2), (2, 3), (3, 4), (4, 5)] with i := 0x0400 }).i = 0x0403 ∧
    (ran 0xF355 { regs [(3, 4)] with i := 0x0400, quirks := ⟨false, true, false⟩ }).i = 0x0400 := by decide

/-- IX21. -/
theorem test_stRegs_outside : (ran 0xFF55 { regs [(0, 0x10)] with i := 0x0FF1 }).mem.read 0xFF1 = 0 ∧
    (ran 0xFF55 { regs [(0, 0x10)] with i := 0x0FF1 }).report = .outOfBoundsAddress 0x1000 := by decide

/-- IX22. -/
theorem test_ldRegs : (ran 0xF265 { State.reset with i := 0x0050 }).readV 0 = 0xF0 ∧
    (ran 0xF265 { State.reset with i := 0x0050 }).readV 2 = 0x90 ∧
    (ran 0xF265 { State.reset with i := 0x0050 }).readV 3 = 0 ∧
    (ran 0xF265 { State.reset with i := 0x0050 }).i = 0x0052 := by decide

/-- IX24. -/
theorem test_ldRegs_outside : (ran 0xF165 { regs [(0, 7), (1, 8)] with i := 0x0FFF }).readV 0 = 7 ∧
    (ran 0xF165 { regs [(0, 7), (1, 8)] with i := 0x0FFF }).i = 0x0FFF := by decide

/-- DR1. -/
theorem test_cls : cells (ran 0x00E0 (lit State.reset [(0, 0), (31, 63)])) [(0, 0), (31, 63)] = [false, false] := by decide

/-- DR3: the edges of what is drawn, and nothing wrapped to column 0 or row 0. -/
theorem test_drw_clips :
    cells (ran 0xD123 (bytesAt 0x300 [0xFF, 0x81, 0xFF] (regs [(1, 60), (2, 30)])))
      [(30, 59), (30, 60), (30, 63), (31, 60), (31, 61), (31, 63), (30, 0), (31, 0), (0, 60)] =
      [false, true, true, true, false, false, false, false, false] := by decide

/-- DR5, DR8: a collision; out of range, the flag is not cleared. -/
theorem test_drw_flag :
    (ran 0xD121 (lit (bytesAt 0x300 [0xFF] State.reset) [(0, 7), (0, 8)])).readV 15 = 1 ∧
    (ran 0xD122 (bytesAt 0xFFF [0xFF] (regs [(15, 7)]))).readV 15 = 7 := by decide

/-- TK1. -/
theorem test_rnd : (ran 0xC1F0 State.reset 0 0xFF).readV 1 = 0xF0 := by decide

/-- TK6, TK8. -/
theorem test_skp : (ran 0xE19E (regs [(1, 15)]) 0x8000).pc = 0x0204 ∧
    (ran 0xE19E (regs [(1, 16)]) 0xFFFF).pc = 0x0202 := by decide

/-- TK9, TK10. -/
theorem test_sknp : (ran 0xE1A1 (regs [(1, 16)]) 0xFFFF).pc = 0x0204 ∧
    (ran 0xE1A1 (regs [(1, 3)]) 0x0008).pc = 0x0202 := by decide

/-- TK12. -/
theorem test_ldVxDt : (ran 0xF107 { State.reset with dt := 0xFF }).readV 1 = 0xFF := by decide

/-- TK14. -/
theorem test_ldVxK_none : (ran 0xF10A State.reset 0).pc = 0x0200 := by decide

/-- TK17. -/
theorem test_ldVxK : (ran 0xF10A State.reset 0x0280).readV 1 = 7 ∧ (ran 0xF10A State.reset 0x0280).pc = 0x0202 := by
  decide

/-- TK18. -/
theorem test_ldDtVx : (ran 0xF115 (regs [(1, 0xFF)])).dt = 0xFF ∧ (ran 0xF115 (regs [(1, 0xFF)])).st = 0 := by decide

/-- TK20. -/
theorem test_ldStVx : (ran 0xF118 (regs [(1, 1)])).st = 1 ∧ (ran 0xF118 (regs [(1, 1)])).dt = 0 := by decide

/-! ### States that meet the hypotheses of each statement, one theorem a statement -/

theorem test_hyp_EncodeDecodeRoundTrip : decodeWord 0xD7FF = some (.drw 7 15 15) ∧ decodeWord 0x8000 = some (.ldReg 0 0) := by
  decide

/-- The lowest and the highest word of each row of R87. -/
theorem test_hyp_OpcodeMap :
    ([(0x00E0, 0xFFFF, 0x00E0), (0x00EE, 0xFFFF, 0x00EE), (0x1000, 0xF000, 0x1000), (0x1FFF, 0xF000, 0x1000),
      (0x2000, 0xF000, 0x2000), (0x2FFF, 0xF000, 0x2000), (0x3000, 0xF000, 0x3000), (0x3FFF, 0xF000, 0x3000),
      (0x4000, 0xF000, 0x4000), (0x4FFF, 0xF000, 0x4000), (0x5000, 0xF000, 0x5000), (0x5FFF, 0xF000, 0x5000),
      (0x6000, 0xF000, 0x6000), (0x6FFF, 0xF000, 0x6000), (0x7000, 0xF000, 0x7000), (0x7FFF, 0xF000, 0x7000)] ++
     [(0x8000, 0xF00F, 0x8000), (0x8FF0, 0xF00F, 0x8000), (0x8001, 0xF00F, 0x8001), (0x8FF1, 0xF00F, 0x8001),
      (0x8002, 0xF00F, 0x8002), (0x8FF2, 0xF00F, 0x8002), (0x8003, 0xF00F, 0x8003), (0x8FF3, 0xF00F, 0x8003),
      (0x8004, 0xF00F, 0x8004), (0x8FF4, 0xF00F, 0x8004), (0x8005, 0xF00F, 0x8005), (0x8FF5, 0xF00F, 0x8005),
      (0x8006, 0xF00F, 0x8006), (0x8FF6, 0xF00F, 0x8006), (0x8007, 0xF00F, 0x8007), (0x8FF7, 0xF00F, 0x8007),
      (0x800E, 0xF00F, 0x800E), (0x8FFE, 0xF00F, 0x800E)] ++
     [(0x9000, 0xF000, 0x9000), (0x9FFF, 0xF000, 0x9000), (0xA000, 0xF000, 0xA000), (0xAFFF, 0xF000, 0xA000),
      (0xB000, 0xF000, 0xB000), (0xBFFF, 0xF000, 0xB000), (0xC000, 0xF000, 0xC000), (0xCFFF, 0xF000, 0xC000),
      (0xD000, 0xF000, 0xD000), (0xDFFF, 0xF000, 0xD000), (0xE09E, 0xF0FF, 0xE09E), (0xEF9E, 0xF0FF, 0xE09E),
      (0xE0A1, 0xF0FF, 0xE0A1), (0xEFA1, 0xF0FF, 0xE0A1)] ++
     [(0xF007, 0xF0FF, 0xF007), (0xFF07, 0xF0FF, 0xF007), (0xF00A, 0xF0FF, 0xF00A), (0xFF0A, 0xF0FF, 0xF00A),
      (0xF015, 0xF0FF, 0xF015), (0xFF15, 0xF0FF, 0xF015), (0xF018, 0xF0FF, 0xF018), (0xFF18, 0xF0FF, 0xF018),
      (0xF01E, 0xF0FF, 0xF01E), (0xFF1E, 0xF0FF, 0xF01E), (0xF029, 0xF0FF, 0xF029), (0xFF29, 0xF0FF, 0xF029),
      (0xF033, 0xF0FF, 0xF033), (0xFF33, 0xF0FF, 0xF033), (0xF055, 0xF0FF, 0xF055), (0xFF55, 0xF0FF, 0xF055),
      (0xF065, 0xF0FF, 0xF065), (0xFF65, 0xF0FF, 0xF065)] : List (Word × Word × Word)).all
      (fun p => p.1 &&& p.2.1 == p.2.2) = true := by decide

/-- The words that open and close each range of R89's table. -/
theorem test_hyp_UnmatchedWordsExactly :
    ([0x0000, 0x00DF, 0x00E1, 0x00ED, 0x00EF, 0x0FFF, 0x8008, 0x8FFD, 0x800F, 0xE09D, 0xE09F, 0xE0A0, 0xE0A2, 0xEFFF,
      0xF006, 0xF008, 0xF066, 0xFFFF] : List Word).all (fun op => decodeWord op == none) = true := by decide

theorem test_hyp_IgnoredNibbleHasNoEffect :
    (BitVec.extractLsb' 12 4 (0x5FFF : Word) = 5#4 ∧ decodeWord 0x5FFF = some (.seReg 15 15 15) ∧
      decodeWord ((BitVec.extractLsb' 4 12 (0x5FFF : Word) : BitVec 12) ++ (0 : Nibble)) = some (.seReg 15 15 0)) ∧
    (BitVec.extractLsb' 12 4 (0x9127 : Word) = 9#4 ∧ decodeWord 0x9127 = some (.sneReg 1 2 7) ∧
      decodeWord ((BitVec.extractLsb' 4 12 (0x9127 : Word) : BitVec 12) ++ (0 : Nibble)) = some (.sneReg 1 2 0)) := by
  decide

/-- The reset state with this word at `a`, pc there, and these requests. -/
def placed (a w : Word) (q : List Request) : State :=
  { State.reset with
    pc := a, mem := (Memory.write [] a.toNat (highByte w)).write (a.toNat + 1) (lowByte w), requests := q }

/-- The two kinds of next Step: a listed one, and one with free inputs. -/
theorem nextIsStep_listed (s : State) (k : BitVec 16) (r : Byte) (rest : List Request) :
    State.NextIsStep { s with requests := .step k r :: rest } k r { s with requests := rest } :=
  .inl ⟨rest, rfl, rfl⟩

theorem nextIsStep_free (s : State) (h : s.requests = []) :
    State.NextIsStep s (Config.freeKeys s.drawn) (Config.freeRnd s.drawn) { s with drawn := s.drawn + 1 } :=
  .inr ⟨.inl h, rfl, rfl, rfl⟩

theorem test_hyp_StepRunsDecodedInstruction :
    ((placed 0x0FFE 0xF10A [.step 0x8000 7, .tick]).pc.toNat ≤ 0x0FFE ∧
      decode (placed 0x0FFE 0xF10A [.step 0x8000 7, .tick]).fetchBytes = .instr (.ldVxK 1) [] ∧
      (placed 0x0FFE 0xF10A [.step 0x8000 7, .tick]).requests = .step 0x8000 7 :: [.tick]) ∧
    ((placed 0x200 0xC1F0 []).pc.toNat ≤ 0x0FFE ∧
      decode (placed 0x200 0xC1F0 []).fetchBytes = .instr (.rnd 1 0xF0) [] ∧ (placed 0x200 0xC1F0 []).requests = []) ∧
    ((placed 0x200 0xC1F0 [.free]).pc.toNat ≤ 0x0FFE ∧
      decode (placed 0x200 0xC1F0 [.free]).fetchBytes = .instr (.rnd 1 0xF0) [] ∧
      (placed 0x200 0xC1F0 [.free]).requests = .free :: []) := by
  decide

/-- Fetch outside at its first address; an unmatched and a matched word at the last one inside. -/
theorem test_hyp_StepAlgorithm :
    (∃ u, State.NextIsStep (placed 0x0FFF 0x1200 [.step 1 2]) 1 2 u ∧ 0x0FFE < (placed 0x0FFF 0x1200 [.step 1 2]).pc.toNat) ∧
    (∃ u, State.NextIsStep (placed 0x0FFE 0x8128 [.step 1 2]) 1 2 u ∧
      (placed 0x0FFE 0x8128 [.step 1 2]).pc.toNat ≤ 0x0FFE ∧
      (placed 0x0FFE 0x8128 [.step 1 2]).mem.read 0x0FFE ++ (placed 0x0FFE 0x8128 [.step 1 2]).mem.read (0x0FFE + 1) =
        (0x8128 : Word) ∧ decodeWord 0x8128 = none) ∧
    (∃ u, State.NextIsStep (placed 0x0FFE 0x6A2F []) (Config.freeKeys 0) (Config.freeRnd 0) u ∧
      (placed 0x0FFE 0x6A2F []).mem.read 0x0FFE ++ (placed 0x0FFE 0x6A2F []).mem.read (0x0FFE + 1) = (0x6A2F : Word) ∧
      decodeWord 0x6A2F = some (.ldImm 10 0x2F)) :=
  ⟨⟨_, nextIsStep_listed (placed 0x0FFF 0x1200 []) 1 2 [], by decide⟩,
    ⟨_, nextIsStep_listed (placed 0x0FFE 0x8128 []) 1 2 [], by decide⟩,
    ⟨_, nextIsStep_free _ rfl, by decide⟩⟩

/-- A timer changes in the Step that runs FX15, and in the one that runs FX18. -/
theorem test_hyp_StepAlgorithm_timers :
    (ran 0xF115 (regs [(1, 5)])).dt ≠ (regs [(1, 5)]).dt ∧ (ran 0xF118 (regs [(1, 5)])).st ≠ (regs [(1, 5)]).st := by
  decide

theorem test_hyp_UnmatchedWordIsReportedNoop :
    ∃ s u, State.NextIsStep s 0 0 u ∧ s.pc.toNat ≤ 0x0FFE ∧
      (0xFFFF : Word) = s.mem.read s.pc.toNat ++ s.mem.read (s.pc.toNat + 1) ∧ decodeWord 0xFFFF = none :=
  ⟨_, _, nextIsStep_listed (placed 0x0FFE 0xFFFF []) 0 0 [], by decide⟩

theorem test_hyp_FetchOutOfRangeStandsStill :
    (∃ s u, State.NextIsStep s 0 0 u ∧ 0x0FFE < s.pc.toNat) ∧
    (∃ s : State, 0x0FFE < s.pc.toNat ∧ ∀ q ∈ s.requests, q.isStep = true) ∧
    (∃ s : State, 0x0FFE < s.pc.toNat ∧ s.requests = [.tick, .free] ∧ ∀ inp, .reset inp ∉ s.requests) :=
  ⟨⟨_, _, nextIsStep_listed (placed 0x0FFF 0 []) 0 0 [], by decide⟩, ⟨placed 0xFFFF 0 [.step 0 0, .step 1 1], by decide⟩,
    ⟨placed 0x0FFF 0 [.tick, .free], by decide, rfl, fun _ => by simp [placed]⟩⟩

theorem test_hyp_NothingStopsTheMachine : ∃ s u k r, State.NextIsStep s k r u :=
  ⟨State.reset, _, _, _, nextIsStep_free _ rfl⟩

/-- A Step that raises nothing and one that raises a report. -/
theorem test_hyp_AtMostOneReportPerStep :
    (∃ s u t, State.NextIsStep s 0 0 u ∧ step s = .next t ∧ t.report = .none) ∧
    (∃ s u t, State.NextIsStep s 0 0 u ∧ step s = .next t ∧ t.report ≠ .none) :=
  ⟨⟨_, _, _, nextIsStep_listed (placed 0x200 0x6A2F []) 0 0 [], rfl, by decide⟩,
    ⟨_, _, _, nextIsStep_listed (placed 0x200 0x00EE []) 0 0 [], rfl, by decide⟩⟩

/-- A Step and a Tick with the bit set. -/
theorem test_hyp_HaltedIsSticky :
    (∃ s t : State, step s = .next t ∧ s.halted = true ∧ ∀ inp, s.requests.head? ≠ some (.reset inp)) ∧
    (∃ s t : State, step s = .next t ∧ s.halted = true ∧ s.requests = [.tick]) :=
  ⟨⟨{ placed 0x200 0x1ABC [] with halted := true }, _, rfl, rfl, fun _ h => by cases h⟩,
    ⟨{ State.reset with halted := true, requests := [.tick] }, _, rfl, rfl, rfl⟩⟩

/-- An instruction outside every class, and `halted` set before. -/
theorem test_hyp_InstructionsWriteOnlyTheirState :
    ∃ (i : Instr) (s t : State), exec i s = .next t ∧ writesV i = false ∧ writesI i = false ∧ writesStack i = false ∧
      writesDisp i = false ∧ (∀ x, i ≠ .ldDtVx x) ∧ (∀ x, i ≠ .ldStVx x) ∧ writesHalted i = false ∧ s.halted = true ∧
      writesMem i = false :=
  ⟨.skp 1, { State.reset with halted := true }, _, rfl, rfl, rfl, rfl, rfl, by decide, by decide, rfl, rfl, rfl⟩

theorem test_hyp_InputsReadOnlyByTheirInstructions : readsKeys (.rnd 1 2) = false ∧ readsRnd (.ldVxK 1) = false := by
  decide

/-- A Step and a Tick with quirk bits set. -/
theorem test_hyp_QuirksChangeOnlyAtReset :
    (∃ s t : State, step s = .next t ∧ s.quirks.jumpUsesVx = true ∧ ∀ inp, s.requests.head? ≠ some (.reset inp)) ∧
    (∃ s t : State, step s = .next t ∧ s.quirks.jumpUsesVx = true ∧ s.requests.head? = some .tick) :=
  ⟨⟨{ placed 0x200 0xB300 [] with quirks := ⟨false, false, true⟩ }, _, rfl, rfl, fun _ h => by cases h⟩,
    ⟨{ State.reset with quirks := ⟨false, false, true⟩, requests := [.tick] }, _, rfl, rfl, rfl⟩⟩

/-- A flag instruction, one that is not DXYN, and a load into V[15]. -/
theorem test_hyp_FlagRegisterIsAlwaysWritten :
    (∃ t, exec (.drw 15 1 0) State.reset = .next t ∧ writesFlag (.drw 15 1 0) = true ∧ t.reported = State.reset.reported) ∧
    (∃ t, exec (.addReg 15 1) State.reset = .next t ∧ writesFlag (.addReg 15 1) = true ∧
      ∀ x y n, Instr.addReg 15 1 ≠ .drw x y n) ∧
    (∃ t, exec (.ldImm 15 0xAB) State.reset = .next t ∧ writesFlag (.ldImm 15 0xAB) = false ∧
      t.readV 15 ≠ State.reset.readV 15) :=
  ⟨⟨_, rfl, rfl, rfl⟩, ⟨_, rfl, rfl, fun _ _ _ h => by cases h⟩, ⟨_, rfl, rfl, by decide⟩⟩

theorem test_hyp_TickCountsDown : State.requests { State.reset with dt := 255, st := 1, requests := [.tick] } = .tick :: [] :=
  rfl

/-- The empty program, and the longest one. -/
theorem test_hyp_Reset :
    (∃ (s : State) (inp : ResetInputs) (q : List Request), s.requests = .reset inp :: q ∧ inp.program.length ≤ 3584) ∧
    (∃ (s : State) (inp : ResetInputs) (q : List Request), s.requests = .reset inp :: q ∧ inp.program.length = 3584) :=
  ⟨⟨{ State.reset with requests := [.reset ⟨7, defaultFont, []⟩] }, _, _, rfl, Nat.zero_le _⟩,
    ⟨{ State.reset with requests := [.reset ⟨7, defaultFont, List.replicate 3584 0⟩, .tick] }, _, _, rfl,
      List.length_replicate⟩⟩

theorem test_hyp_ResetRefusesLongProgram :
    ∃ (s : State) (inp : ResetInputs) (q : List Request), s.requests = .reset inp :: q ∧ 3584 < inp.program.length :=
  ⟨{ State.reset with requests := [.reset ⟨7, defaultFont, List.replicate 3585 0⟩] }, _, _, rfl, by
    rw [List.length_replicate]; decide⟩

/-- A state at the edges of the invariant. -/
def edge : State := { placed 0x0FFE 0x00EE [.step 0 0] with i := 0x0FFF, stack := [0x1000] }

theorem test_hyp_StepKeepsInvariant : edge.Inv ∧ ∃ t, step edge = .next t :=
  ⟨⟨by decide, by decide, by decide, by simp [edge]⟩, _, rfl⟩

theorem test_hyp_StoreIsSeenByNextFetch :
    ∃ s : State, s.mem.wf = true ∧ (15 : Nibble) ≠ 0 ∧ s.i.toNat + (15 : Nibble).toNat ≤ 0xFFF :=
  ⟨{ State.reset with i := 0x0FF0 }, by decide⟩

theorem test_hyp_ReturnPopsOrReports :
    State.stack { State.reset with stack := [0x1000, 0x202] } = 0x1000 :: [0x202] ∧ State.reset.stack = [] := by decide

/-- The instruction at 0x0FFE, whose advanced pc is 0x1000. -/
theorem test_hyp_JumpSetsPcAndSelfLoopFlag : State.pc { State.reset with pc := 0x1000 } = (0x0FFE : Word) + 2 := by decide

theorem test_hyp_CallThenReturnRestoresPc :
    ∃ s t u : State, exec (.call 0xFFE) s = .next t ∧ u.stack = t.stack ∧ s.pc = 0x1000 :=
  ⟨{ State.reset with pc := 0x1000 }, _, _, rfl, rfl, rfl⟩

/-- The first and the last word of each group that a statement's encoding clause names. -/
theorem test_hyp_encoding_clauses :
    ([(0x3000, 3), (0x3FFF, 3), (0x4000, 4), (0x4FFF, 4), (0xB000, 0xB), (0xBFFF, 0xB), (0x6000, 6), (0x6FFF, 6),
      (0x7000, 7), (0x7FFF, 7), (0xA000, 0xA), (0xAFFF, 0xA), (0xC000, 0xC), (0xCFFF, 0xC), (0x8FF0, 8), (0x8FF1, 8),
      (0x8FF2, 8), (0x8FF3, 8), (0xFF29, 0xF), (0xFF1E, 0xF), (0xFF07, 0xF), (0xFF15, 0xF), (0xFF18, 0xF),
      (0xFF0A, 0xF)] : List (Word × Nibble)).all (fun p => BitVec.extractLsb' 12 4 p.1 == p.2) = true ∧
    ([(0x8FF0, 0), (0x8FF1, 1), (0x8FF2, 2), (0x8FF3, 3)] : List (Word × Nibble)).all
      (fun p => BitVec.extractLsb' 0 4 p.1 == p.2) = true ∧
    ([(0xFF29, 0x29), (0xFF1E, 0x1E), (0xFF07, 0x07), (0xFF15, 0x15), (0xFF18, 0x18), (0xFF0A, 0x0A)] :
      List (Word × Byte)).all (fun p => BitVec.extractLsb' 0 8 p.1 == p.2) = true := by decide

/-- Both settings of the quirk, at the largest sum. -/
theorem test_hyp_JumpTable :
    (∃ (s : State) (off : Byte), s.pc = (0x0200 : Word) + 2 ∧ off = 0xFF ∧
      off = (if s.quirks.jumpUsesVx = true then s.readV (BitVec.extractLsb' 8 4 (0xFFF : Addr)) else s.readV 0)) ∧
    (∃ (s : State) (off : Byte), s.pc = (0x0200 : Word) + 2 ∧ off = 2 ∧
      off = (if s.quirks.jumpUsesVx = true then s.readV (BitVec.extractLsb' 8 4 (0x1FE : Addr)) else s.readV 0)) :=
  ⟨⟨{ regs [(0, 0xFF)] with pc := 0x0202 }, _, by decide, rfl, by decide⟩,
    ⟨{ regs [(1, 2)] with pc := 0x0202, quirks := ⟨false, false, true⟩ }, _, by decide, rfl, by decide⟩⟩

/-- The operands of 8XY4, 8XY5 and 8XY7 at a carry, an equality and a borrow, with X = 15 and with another X. -/
theorem test_hyp_Arithmetic :
    (∃ (s : State) (a b : Nat), a = (s.readV 15).toNat ∧ b = (s.readV 14).toNat ∧ a + b > 255) ∧
    (∃ (s : State) (a b : Nat), a = (s.readV 1).toNat ∧ b = (s.readV 2).toNat ∧ a = b ∧ (1 : Nibble) ≠ 15) ∧
    (∃ (s : State) (a b : Nat), a = (s.readV 1).toNat ∧ b = (s.readV 2).toNat ∧ a < b ∧ (1 : Nibble) ≠ 15) :=
  ⟨⟨regs [(15, 0xFF), (14, 1)], _, _, rfl, rfl, by decide⟩, ⟨regs [(1, 0x33), (2, 0x33)], _, _, rfl, rfl, by decide⟩,
    ⟨regs [(1, 0), (2, 0xFF)], _, _, rfl, rfl, by decide⟩⟩

/-- The source of a shift under both settings of the quirk. -/
theorem test_hyp_Shifts :
    (∃ s : State, 0xFF = (if s.quirks.shiftIgnoresVy = true then s.readV 1 else s.readV 2).toNat ∧
      s.quirks.shiftIgnoresVy = true) ∧
    (∃ s : State, 0x02 = (if s.quirks.shiftIgnoresVy = true then s.readV 1 else s.readV 2).toNat ∧
      s.quirks.shiftIgnoresVy = false) :=
  ⟨⟨{ regs [(1, 0xFF), (2, 2)] with quirks := ⟨true, false, false⟩ }, by decide⟩, ⟨regs [(1, 0xFF), (2, 2)], by decide⟩⟩

/-- The largest sum of a reachable state, and the largest without overflow. -/
theorem test_hyp_IndexAddOverflow :
    (∃ (s : State) (sum : Nat), sum = s.i.toNat + (s.readV 15).toNat ∧ sum = 0x10FE) ∧
    (∃ (s : State) (sum : Nat), sum = s.i.toNat + (s.readV 1).toNat ∧ sum = 0xFFF) :=
  ⟨⟨{ regs [(15, 0xFF)] with i := 0x0FFF }, _, rfl, by decide⟩, ⟨{ State.reset with i := 0x0FFF }, _, rfl, by decide⟩⟩

theorem test_hyp_DecimalDigitsStored : ∃ s : State, s.mem.wf = true ∧ s.i.toNat + 2 = 0xFFF :=
  ⟨{ State.reset with i := 0x0FFD }, by decide⟩

/-- FX55 and FX65 with all sixteen registers, ending at the top of memory, under both settings of the quirk. -/
theorem test_hyp_RegisterBlock :
    (∃ s : State, s.mem.wf = true ∧ s.i.toNat + (15 : Nibble).toNat = 0xFFF ∧ s.quirks.noIndexIncrement = false) ∧
    (∃ s : State, s.mem.wf = true ∧ s.i.toNat + (15 : Nibble).toNat = 0xFFF ∧ s.quirks.noIndexIncrement = true) :=
  ⟨⟨{ State.reset with i := 0x0FF0 }, by decide⟩,
    ⟨{ State.reset with i := 0x0FF0, quirks := ⟨false, true, false⟩ }, by decide⟩⟩

theorem test_hyp_BlockStoreLoadRoundTrip :
    ∃ s t u w : State, s.mem.wf = true ∧ s.i.toNat + (2 : Nibble).toNat ≤ 0xFFF ∧ exec (.stRegs 2) s = .next t ∧
      u.mem = t.mem ∧ u.i = s.i ∧ exec (.ldRegs 2) u = .next w ∧ u.readV 2 ≠ s.readV 2 :=
  ⟨{ regs [(0, 0x11), (1, 0x22), (2, 0x33)] with i := 0x0FFD }, _,
    { State.reset with
      i := 0x0FFD, mem := State.mem (after (exec (.stRegs 2) { regs [(0, 0x11), (1, 0x22), (2, 0x33)] with i := 0x0FFD })) },
    _, by decide, by decide, rfl, rfl, rfl, rfl, by decide⟩

/-- The first `I` out of range for each of the four instructions. -/
theorem test_hyp_OutOfRangeAccessSkipsInstruction :
    0xFFF < (0x0FFE : Word).toNat + 2 ∧ 0xFFF < (0x0FF1 : Word).toNat + (15 : Nibble).toNat ∧
    1 ≤ (2 : Nibble).toNat ∧ 0xFFF < (0x0FFF : Word).toNat + (2 : Nibble).toNat - 1 := by decide

/-- N = 0 with `I` at the top, and N = 15 ending at the top of memory. -/
theorem test_hyp_DrawXorsSprite :
    (∃ (s : State) (x0 y0 : Nat), (0 : Nibble) = 0 ∧ s.i = 0x0FFF ∧ x0 = (s.readV 15).toNat % 64 ∧
      y0 = (s.readV 1).toNat % 32) ∧
    (∃ (s : State) (x0 y0 : Nat), s.i.toNat + (15 : Nibble).toNat = 4096 ∧ x0 = (s.readV 1).toNat % 64 ∧ x0 = 63 ∧
      y0 = (s.readV 2).toNat % 32 ∧ y0 = 31) :=
  ⟨⟨{ State.reset with i := 0x0FFF }, _, _, rfl, rfl, rfl, rfl⟩,
    ⟨{ regs [(1, 0x7F), (2, 0x3F)] with i := 0x0FF1 }, _, _, by decide, rfl, by decide, rfl, by decide⟩⟩

/-- S4's first instance: two draws on the empty display. -/
theorem test_hyp_DrawTwiceRestoresDisplay :
    ∃ s t u w : State, exec (.drw 1 2 1) s = .next t ∧ u.disp = t.disp ∧ u.mem = s.mem ∧ u.i = s.i ∧
      u.readV 1 = s.readV 1 ∧ u.readV 2 = s.readV 2 ∧ exec (.drw 1 2 1) u = .next w ∧
      s.i.toNat + (1 : Nibble).toNat ≤ 4096 :=
  ⟨bytesAt 0x300 [0xC0] State.reset, _, after (exec (.drw 1 2 1) (bytesAt 0x300 [0xC0] State.reset)), _, rfl, rfl, rfl, rfl,
    by decide, by decide, rfl, by decide⟩

/-- Two draws with N = 0 and `I` at the top, a case of the flag clause and of the display clause. -/
theorem test_hyp_DrawTwiceRestoresDisplay_empty :
    ∃ s t u w : State, exec (.drw 1 2 0) s = .next t ∧ u.disp = t.disp ∧ u.mem = s.mem ∧ u.i = s.i ∧
      u.readV 1 = s.readV 1 ∧ u.readV 2 = s.readV 2 ∧ exec (.drw 1 2 0) u = .next w ∧ s.i = 0x0FFF ∧
      ((0 : Nibble) = 0 ∨ s.i.toNat + (0 : Nibble).toNat ≤ 4096) :=
  ⟨{ State.reset with i := 0x0FFF }, _, { State.reset with i := 0x0FFF }, _, rfl, rfl, rfl, rfl, rfl, rfl, rfl, rfl, .inl rfl⟩

/-- The first and the second of two equal draws whose every set bit meets a set cell (log entry 28). -/
def drawnOver : State := after (exec (.drw 1 2 1) (lit (bytesAt 0x300 [0xC0] State.reset) [(0, 0), (0, 1)]))

/-- Where R183 b and R181 differ: the first draw collides, the second, by R181's own lines, meets no set cell. -/
theorem test_hyp_DrawTwiceRestoresDisplay_covered :
    (∃ s t u w : State, s = lit (bytesAt 0x300 [0xC0] State.reset) [(0, 0), (0, 1)] ∧ exec (.drw 1 2 1) s = .next t ∧
      u.disp = t.disp ∧ u.mem = s.mem ∧ u.i = s.i ∧ u.readV 1 = s.readV 1 ∧ u.readV 2 = s.readV 2 ∧
      exec (.drw 1 2 1) u = .next w ∧ s.i.toNat + (1 : Nibble).toNat ≤ 4096) ∧
    drawnOver.readV 15 = 1 ∧ (after (exec (.drw 1 2 1) drawnOver)).readV 15 = 0 :=
  ⟨⟨_, _, drawnOver, _, rfl, rfl, rfl, rfl, rfl, by decide, by decide, rfl, by decide⟩, by decide⟩

theorem test_hyp_WaitForKey : State.reset.keys = 0 ∧ State.keys { State.reset with keys := 0x8000 } ≠ 0 := by decide

/-! ### Infinite runs: a machine that stands at an address it cannot fetch from, under any word -/

/-- The run from pc 0xFFFF with `DT` = 200. -/
def standing (ops : Nat → Request) : Nat → State
  | 0 => { State.reset with pc := 0xFFFF, dt := 200 }
  | n + 1 => after (step { standing ops n with requests := [ops n] })

/-- What one operation does to a state whose pc is 0xFFFF. -/
theorem standing_step (q : Request) (hq : q = .tick ∨ q.isStep = true) (s : State) (h : s.pc = 0xFFFF) :
    ∃ t, step { s with requests := [q] } = .next t ∧ t.pc = 0xFFFF ∧ (q.isStep = true → t.dt = s.dt) := by
  cases q with
  | step k r =>
    have hr : inRange (State.sample { s with requests := [] } k r).pc.toNat 2 = false := by
      show inRange s.pc.toNat 2 = false
      rw [h]; decide
    rcases fetchExecute_cases (State.sample { s with requests := [] } k r) with ⟨_, e⟩ | ⟨hr', _⟩ | ⟨_, hr', _⟩
    · exact ⟨_, (step_of_nextIsStep (.inl ⟨[], rfl, rfl⟩)).trans e, h, fun _ => rfl⟩
    · rw [hr] at hr'; cases hr'
    · rw [hr] at hr'; cases hr'
  | tick => exact ⟨_, step_of_tick rfl, h, fun hs => by cases hs⟩
  | reset inp => rcases hq with hq | hq <;> cases hq
  | free => rcases hq with hq | hq <;> cases hq

theorem standing_succ {ops : Nat → Request} {n : Nat} {t : State}
    (h : step { standing ops n with requests := [ops n] } = .next t) : standing ops (n + 1) = t :=
  congrArg after h

theorem standing_pc {ops : Nat → Request} (h : IsHostWord ops) (n : Nat) : (standing ops n).pc = 0xFFFF := by
  induction n with
  | zero => rfl
  | succ n ih =>
    obtain ⟨t, ht, hp, -⟩ := standing_step (ops n) (h n) _ ih
    rw [standing_succ ht]; exact hp

theorem standing_isRun {ops : Nat → Request} (h : IsHostWord ops) : IsRun ops (standing ops) := by
  intro n
  obtain ⟨t, ht, -⟩ := standing_step (ops n) (h n) _ (standing_pc h n)
  rw [standing_succ ht]; exact ht

theorem standing_dt {ops : Nat → Request} (h : IsHostWord ops) (n : Nat) (hs : (ops n).isStep = true) :
    (standing ops (n + 1)).dt = (standing ops n).dt := by
  obtain ⟨t, ht, -, hd⟩ := standing_step (ops n) (h n) _ (standing_pc h n)
  rw [standing_succ ht]; exact hd hs

/-- Step, Tick, Step, Tick, without end. -/
def alternating (n : Nat) : Request := if n % 2 = 0 then .step 0 0 else .tick

theorem alternating_isHostWord : IsHostWord alternating := by
  intro n
  unfold alternating
  split
  · exact .inr rfl
  · exact .inl rfl

theorem freeOperation_isHostWord (k : Nat) : IsHostWord (fun m => freeOperation (k + m)) := by
  intro n
  simp only [freeOperation]
  split
  · exact .inl rfl
  · exact .inr rfl

/-- A word, and a run under the free operations from a state whose host is open-ended. -/
theorem test_hyp_EveryHostWordIsARun :
    IsHostWord alternating ∧
    ∃ (s : State) (q : List Request) (σ : Nat → State), s.requests = .free :: q ∧ σ 0 = s ∧
      IsRun (fun m => freeOperation (s.drawn + m)) σ := by
  refine ⟨alternating_isHostWord, { State.reset with pc := 0xFFFF, dt := 200, requests := [.free] }, [],
    fun n => Nat.casesOn n { State.reset with pc := 0xFFFF, dt := 200, requests := [.free] }
      (fun m => standing (fun m => freeOperation (0 + m)) (m + 1)), rfl, rfl, fun n => ?_⟩
  cases n with
  | zero => exact standing_isRun (freeOperation_isHostWord 0) 0
  | succ n => exact standing_isRun (freeOperation_isHostWord 0) (n + 1)

/-- A fair word, and a run under it in which no Step changes `DT`. -/
theorem test_hyp_TickFairRunBringsDelayToZero :
    IsHostWord alternating ∧ IsRun alternating (standing alternating) ∧ TickFair alternating ∧ StepFair alternating ∧
      ∀ n, (alternating n).isStep = true → (standing alternating (n + 1)).dt = (standing alternating n).dt :=
  ⟨alternating_isHostWord, standing_isRun alternating_isHostWord,
    fun n => ⟨2 * n + 1, by omega, by unfold alternating; rw [if_neg (by omega)]⟩,
    fun n => ⟨2 * n, by omega, by unfold alternating; rw [if_pos (by omega)]; rfl⟩,
    fun n => standing_dt alternating_isHostWord n⟩

end Sys2Proof.Tests
end

/-! ## The state: 10_state.md

What every instruction leaves unchanged, what no instruction reads, and the invariant of reachable states. -/

/-! ### What an instruction can write (the table of R20) -/

section
namespace Sys2Proof.Machine

/-- The instructions that can leave pc other than R85's line 4 left it: `pc`'s row of R20's table. -/
def writesPc : Instr → Bool
  | .ret | .jp _ | .call _ | .seImm _ _ | .sneImm _ _ | .seReg _ _ _ | .sneReg _ _ _ | .jpV0 _ | .skp _ | .sknp _
  | .ldVxK _ => true
  | _ => false

/-- From `s` to `t` only elements changed that R20's table lets the instruction `i` write. -/
structure State.Frame (i : Instr) (s t : State) : Prop where
  v : writesV i = false → t.v = s.v
  index : writesI i = false → t.i = s.i
  pc : writesPc i = false → t.pc = s.pc
  stack : writesStack i = false → t.stack = s.stack
  disp : writesDisp i = false → t.disp = s.disp
  dt : (∀ x, i ≠ .ldDtVx x) → t.dt = s.dt
  st : (∀ x, i ≠ .ldStVx x) → t.st = s.st
  quirks : t.quirks = s.quirks
  halted : writesHalted i = false → t.halted = s.halted
  sticky : s.halted = true → t.halted = true
  mem : writesMem i = false → t.mem = s.mem
  keys : t.keys = s.keys
  rnd : t.rnd = s.rnd
  requests : t.requests = s.requests
  drawn : t.drawn = s.drawn

namespace State.Frame

variable {i : Instr} {s t : State}

theorem refl (i : Instr) (s : State) : Frame i s s where
  v _ := rfl
  index _ := rfl
  pc _ := rfl
  stack _ := rfl
  disp _ := rfl
  dt _ := rfl
  st _ := rfl
  quirks := rfl
  halted _ := rfl
  sticky h := h
  mem _ := rfl
  keys := rfl
  rnd := rfl
  requests := rfl
  drawn := rfl

/-! An operation may follow when the instruction may write what the operation writes. -/

theorem writeV (h : Frame i s t) (hw : writesV i = true) (x : Nibble) (b : Byte) : Frame i s (t.writeV x b) :=
  { h with v := fun hn => nomatch hw.symm.trans hn }

theorem setI (h : Frame i s t) (hw : writesI i = true) (a : Word) : Frame i s (t.setI a) :=
  { h with index := fun hn => nomatch hw.symm.trans hn }

theorem setPc (h : Frame i s t) (hw : writesPc i = true) (a : Word) : Frame i s (t.setPc a) :=
  { h with pc := fun hn => nomatch hw.symm.trans hn }

theorem setDisp (h : Frame i s t) (hw : writesDisp i = true) (d : Display) : Frame i s (t.setDisp d) :=
  { h with disp := fun hn => nomatch hw.symm.trans hn }

theorem push (h : Frame i s t) (hw : writesStack i = true) (a : Word) : Frame i s (t.push a) :=
  { h with stack := fun hn => nomatch hw.symm.trans hn }

theorem setMem (h : Frame i s t) (hw : writesMem i = true) (m : Memory) : Frame i s { t with mem := m } :=
  { h with mem := fun hn => nomatch hw.symm.trans hn }

theorem raise (h : Frame i s t) (r : Report) : Frame i s (t.raise r) := { h with }

theorem writeFlag (h : Frame i s t) (hw : writesV i = true) (f : Bool) : Frame i s (t.writeFlag f) :=
  h.writeV hw 15 (flagByte f)

theorem writeResultFlag (h : Frame i s t) (hw : writesV i = true) (x : Nibble) (b : Byte) (f : Bool) :
    Frame i s (t.writeResultFlag x b f) :=
  (h.writeV hw x b).writeFlag hw f

theorem skipIf (h : Frame i s t) (hw : writesPc i = true) (c : Bool) : Frame i s (t.skipIf c) := by
  cases c with
  | false => exact h
  | true => exact h.setPc hw _

theorem jumpTo (h : Frame i s t) (hp : writesPc i = true) (hh : writesHalted i = true) (a : Word) :
    Frame i s (t.jumpTo a) :=
  { h.setPc hp a with
    halted := fun hn => nomatch hh.symm.trans hn
    sticky := fun hs => by simp [h.sticky hs] }

theorem popPc (h : Frame i s t) (hp : writesPc i = true) (hs : writesStack i = true) : Frame i s t.popPc := by
  rcases t.popPc_cases with ⟨-, e⟩ | ⟨a, rest, -, e⟩ <;> rw [e]
  · exact h.raise _
  · exact { h.setPc hp a with stack := fun hn => nomatch hs.symm.trans hn }

/-- A range check lets its instruction run or raises a report. -/
theorem checked {k : State → State} (h : Frame i s t) (hk : Frame i s (k t)) (ok : Bool) :
    Frame i s (t.checked ok k) := by
  rcases t.checked_cases ok k with ⟨-, e⟩ | ⟨-, e⟩ <;> rw [e]
  · exact hk
  · exact h.raise _

theorem storeBlock (h : Frame i s t) (hw : writesMem i = true) (n : Nat) : Frame i s (t.storeBlock n) := by
  rw [t.storeBlock_eq n]
  exact h.setMem hw _

theorem loadBlock (h : Frame i s t) (hw : writesV i = true) (n : Nat) : Frame i s (t.loadBlock n) := by
  rw [t.loadBlock_eq n]
  exact { h with v := fun hn => nomatch hw.symm.trans hn }

end State.Frame

/-- Every instruction keeps to its rows of R20's table. -/
theorem exec_frame {i : Instr} {s t : State} (h : exec i s = .next t) : State.Frame i s t := by
  have start := State.Frame.refl i s
  cases i with
  | cls => cases h; exact start.setDisp rfl _
  | ret => cases h; exact start.popPc rfl rfl
  | jp | jpV0 => cases h; exact start.jumpTo rfl rfl _
  | call => cases h; exact (start.push rfl _).setPc rfl _
  | seImm | sneImm | seReg | sneReg | skp | sknp => cases h; exact start.skipIf rfl _
  | ldImm | addImm | ldReg | or | and | xor | rnd | ldVxDt => cases h; exact start.writeV rfl _ _
  | addReg | sub | shr | subn | shl => cases h; exact start.writeResultFlag rfl _ _ _
  | ldI | ldF => cases h; exact start.setI rfl _
  | addI => cases h; exact (start.setI rfl _).writeFlag rfl _
  | drw => cases h; exact start.checked ((start.setDisp rfl _).writeFlag rfl _) _
  | ldVxK =>
    cases h
    split
    · exact start.setPc rfl _
    · exact start.writeV rfl _ _
  | ldDtVx x => cases h; exact { start with dt := fun hn => absurd rfl (hn x) }
  | ldStVx x => cases h; exact { start with st := fun hn => absurd rfl (hn x) }
  | ldB => cases h; exact start.checked (start.setMem rfl _) _
  | stRegs => cases h; exact start.checked ((start.storeBlock rfl _).setI rfl _) _
  | ldRegs => cases h; exact start.checked ((start.loadBlock rfl _).setI rfl _) _

/-- Settles O17: the frame of `exec`, element by element. -/
theorem instructionsWriteOnlyTheirState : Obligations.InstructionsWriteOnlyTheirState := by
  intro i s t h
  have f := exec_frame h
  exact ⟨f.v, f.index, f.stack, f.disp, f.dt, f.st, f.quirks, f.halted, f.sticky, f.mem, f.keys, f.rnd, f.requests,
    f.drawn⟩

end Sys2Proof.Machine
end

/-! ### What a served operation leaves -/

section
namespace Sys2Proof.Machine

/-- A Step that answers a next state reported its fetch, reported its word, or executed an instruction it fetched. -/
theorem fetchExecute_next {s t : State} (h : fetchExecute s = .next t) :
    t = s.raise (.outOfBoundsAddress (firstOutside s.pc)) ∨
    inRange s.pc.toNat 2 = true ∧ t = s.advance.raise (.unmatchedOpcode s.fetchWord) ∨
    ∃ i, inRange s.pc.toNat 2 = true ∧ exec i s.advance = .next t := by
  rcases fetchExecute_cases s with ⟨-, e⟩ | ⟨hr, -, e⟩ | ⟨i, hr, -, e⟩ <;> rw [e] at h
  · cases h; exact .inl rfl
  · cases h; exact .inr (.inl ⟨hr, rfl⟩)
  · exact .inr (.inr ⟨i, hr, h⟩)

/-- Before its inputs are sampled, a Step changes the host's requests and the count of free inputs only. -/
theorem State.NextIsStep.eq_with {s u : State} {k : BitVec 16} {r : Byte} (h : s.NextIsStep k r u) :
    u = { s with requests := u.requests, drawn := u.drawn } := by
  rcases h with ⟨rest, -, rfl⟩ | ⟨-, -, -, rfl⟩ <;> rfl

/-- A step that answers a next state was a Step, a Tick, or a Reset with a program that fits. -/
theorem step_next {s t : State} (h : step s = .next t) :
    (∃ k r q d, fetchExecute (State.sample { s with requests := q, drawn := d } k r) = .next t) ∨
    (∃ q d, t = State.tick { s with requests := q, drawn := d }) ∨
    ∃ inp q, s.requests = .reset inp :: q ∧ inp.program.length ≤ 3584 ∧
      t = State.resetWith { s with requests := q } inp := by
  rcases step_cases s with ⟨k, r, u, hu, e⟩ | ⟨q, -, e⟩ | ⟨q, -, -, e⟩ | ⟨inp, q, hq, e⟩ <;> rw [e] at h
  · rw [hu.eq_with] at h
    exact .inl ⟨k, r, _, _, h⟩
  · cases h; exact .inr (.inl ⟨q, s.drawn, rfl⟩)
  · cases h; exact .inr (.inl ⟨s.requests, s.drawn + 1, rfl⟩)
  · rcases reset_cases inp { s with requests := q } with ⟨hp, e'⟩ | ⟨-, e'⟩ <;> rw [e'] at h
    · cases h; exact .inr (.inr ⟨inp, q, hq, hp, rfl⟩)
    · cases h

theorem fetchExecute_quirks {s t : State} (h : fetchExecute s = .next t) : t.quirks = s.quirks := by
  rcases fetchExecute_next h with rfl | ⟨-, rfl⟩ | ⟨i, -, hi⟩
  · rfl
  · rfl
  · exact (exec_frame hi).quirks

theorem fetchExecute_halted {s t : State} (h : fetchExecute s = .next t) (hs : s.halted = true) : t.halted = true := by
  rcases fetchExecute_next h with rfl | ⟨-, rfl⟩ | ⟨i, -, hi⟩
  · exact hs
  · exact hs
  · exact (exec_frame hi).sticky hs

/-- Settles O16: a Step only ever sets `halted`, and a Tick leaves it. -/
theorem haltedIsSticky : Obligations.HaltedIsSticky := by
  intro s t h hs hreset
  rcases step_next h with ⟨k, r, q, d, hf⟩ | ⟨q, d, rfl⟩ | ⟨inp, q, hq, -, -⟩
  · exact fetchExecute_halted hf hs
  · exact hs
  · exact absurd (by simp [hq]) (hreset inp)

/-- Settles O20: no instruction writes the quirk bits, nor does a report or a Tick. -/
theorem quirksChangeOnlyAtReset : Obligations.QuirksChangeOnlyAtReset := by
  intro s t h hreset
  rcases step_next h with ⟨k, r, q, d, hf⟩ | ⟨q, d, rfl⟩ | ⟨inp, q, hq, -, -⟩
  · exact (fetchExecute_quirks hf).trans rfl
  · rfl
  · exact absurd (by simp [hq]) (hreset inp)

end Sys2Proof.Machine
end

/-! ### The invariant of reachable states -/

section
namespace Sys2Proof.Machine

variable {i : Instr} {s t : State}

/-- FX33 and FX55 write inside the memory or not at all (R166), so memory stays canonical. -/
theorem exec_mem_wf (h : exec i s = .next t) (hm : s.mem.wf = true) : t.mem.wf = true := by
  cases hw : writesMem i with
  | false => rwa [(exec_frame h).mem hw]
  | true =>
    cases i with
    | ldB x =>
      cases h
      rcases s.checked_cases (inRange s.i.toNat 3) _ with ⟨hr, e⟩ | ⟨-, e⟩ <;> rw [e]
      · exact Memory.wf_writeBytes hm _ _ ((inRange_iff _ _).1 hr).2
      · exact hm
    | stRegs x =>
      cases h
      rcases s.checked_cases (inRange s.i.toNat (x.toNat + 1)) _ with ⟨hr, e⟩ | ⟨-, e⟩ <;> rw [e]
      · exact s.storeBlock_wf hm ((inRange_iff _ _).1 hr).2
      · exact hm
    | _ => cases hw

theorem addr_toNat_le (a : Addr) : (a.setWidth 16).toNat ≤ 0x0FFF := by
  rw [BitVec.toNat_setWidth]
  omega

/-- After a block of X + 1 bytes that lies inside the memory, `I` is still inside it, incremented or not (R164, R165). -/
theorem bulkIndex_le {x : Nibble} (hr : inRange s.i.toNat (x.toNat + 1) = true) :
    (s.bulkIndex x).toNat ≤ 0x0FFF := by
  have hb := ((inRange_iff _ _).1 hr).2
  unfold State.bulkIndex
  split
  · omega
  · rw [BitVec.toNat_add, BitVec.toNat_setWidth]
    omega

theorem exec_i_le (h : exec i s = .next t) (hi : s.i.toNat ≤ 0x0FFF) : t.i.toNat ≤ 0x0FFF := by
  cases hw : writesI i with
  | false => rwa [(exec_frame h).index hw]
  | true =>
    cases i with
    | ldI nnn => cases h; exact addr_toNat_le nnn
    | addI x =>
      cases h
      have e := indexResult_toNat s.i (s.readV x)
      simp only [State.writeFlag_i, State.setI_i]
      omega
    | ldF x =>
      cases h
      have e := fontAddress_toNat (s.readV x)
      simp only [State.setI_i]
      omega
    | stRegs x | ldRegs x =>
      cases h
      rcases s.checked_cases (inRange s.i.toNat (x.toNat + 1)) _ with ⟨hr, e⟩ | ⟨-, e⟩ <;> rw [e]
      · exact bulkIndex_le hr
      · exact hi
    | _ => cases hw

/-- CALL pushes the advanced pc, which a fetch inside the memory bounds (R27). -/
theorem exec_stack_le (h : exec i s = .next t) (hp : s.pc.toNat ≤ 0x1000) (hs : ∀ a ∈ s.stack, a.toNat ≤ 0x1000) :
    ∀ a ∈ t.stack, a.toNat ≤ 0x1000 := by
  cases hw : writesStack i with
  | false => rwa [(exec_frame h).stack hw]
  | true =>
    cases i with
    | call nnn => cases h; exact List.forall_mem_cons.2 ⟨hp, hs⟩
    | ret =>
      cases h
      rcases s.popPc_cases with ⟨-, e⟩ | ⟨a, rest, hst, e⟩ <;> rw [e]
      · exact hs
      · exact (List.forall_mem_cons.1 (hst ▸ hs)).2
    | _ => cases hw

theorem skipIf_pc_le (hp : s.pc.toNat ≤ 0x1000) (c : Bool) : (s.skipIf c).pc.toNat ≤ 0x10FE := by
  cases c with
  | false => exact hp.trans (by decide)
  | true =>
    show (s.pc + 2).toNat ≤ _
    rw [BitVec.toNat_add, show (2 : Word).toNat = 2 from rfl]
    omega

/-- BNNN goes furthest: 0x0FFF and an offset of 0xFF (R26, R117). -/
theorem jumpTarget_le (s : State) (nnn : Addr) : (s.jumpTarget nnn).toNat ≤ 0x10FE := by
  have ha := addr_toNat_le nnn
  have hb := (s.jumpOffset nnn).isLt
  rw [State.jumpTarget, BitVec.toNat_add, BitVec.toNat_setWidth_of_le (b := s.jumpOffset nnn) (by decide)]
  omega

/-- From an advanced pc the greatest pc is BNNN's (R26). -/
theorem exec_pc_le (h : exec i s = .next t) (hlo : 2 ≤ s.pc.toNat) (hp : s.pc.toNat ≤ 0x1000)
    (hs : ∀ a ∈ s.stack, a.toNat ≤ 0x1000) : t.pc.toNat ≤ 0x10FE := by
  have hkeep : s.pc.toNat ≤ 0x10FE := hp.trans (by decide)
  cases hw : writesPc i with
  | false => rwa [(exec_frame h).pc hw]
  | true =>
    cases i with
    | ret =>
      cases h
      rcases s.popPc_cases with ⟨-, e⟩ | ⟨a, rest, hst, e⟩ <;> rw [e]
      · exact hkeep
      · exact (hs a (by simp [hst])).trans (by decide)
    | jp nnn | call nnn => cases h; exact (addr_toNat_le nnn).trans (by decide)
    | jpV0 nnn => cases h; exact jumpTarget_le s nnn
    | seImm | sneImm | seReg | sneReg | skp | sknp => cases h; exact skipIf_pc_le hp _
    | ldVxK =>
      cases h
      split
      · show (s.pc - 2).toNat ≤ _
        rw [BitVec.toNat_sub_of_le (by simpa [BitVec.le_def] using hlo)]
        exact (Nat.sub_le _ _).trans hkeep
      · exact hkeep
    | _ => cases hw

/-- Advancing over a word fetched inside the memory (R85 line 4). -/
theorem advance_pc_toNat (hr : inRange s.pc.toNat 2 = true) : s.advance.pc.toNat = s.pc.toNat + 2 := by
  have hb := ((inRange_iff _ _).1 hr).2
  rw [State.advance_pc, BitVec.toNat_add, show (2 : Word).toNat = 2 from rfl]
  omega

theorem fetchExecute_inv (h : fetchExecute s = .next t) (hs : s.Inv) : t.Inv := by
  obtain ⟨hm, hi, hp, hst⟩ := hs
  have hadv : inRange s.pc.toNat 2 = true → 2 ≤ s.advance.pc.toNat ∧ s.advance.pc.toNat ≤ 0x1000 := fun hr => by
    rw [advance_pc_toNat hr]
    exact ⟨Nat.le_add_left _ _, ((inRange_iff _ _).1 hr).2⟩
  rcases fetchExecute_next h with rfl | ⟨hr, rfl⟩ | ⟨i, hr, he⟩
  · exact ⟨hm, hi, hp, hst⟩
  · exact ⟨hm, hi, (hadv hr).2.trans (by decide), hst⟩
  · obtain ⟨hlo, hhi⟩ := hadv hr
    exact ⟨exec_mem_wf he hm, exec_i_le he hi, exec_pc_le he hlo hhi hst, exec_stack_le he hhi hst⟩

/-- Settles O28: `State.reset` has no return address, `I` 0 and pc 0x200. -/
theorem resetMeetsInvariant : Obligations.ResetMeetsInvariant :=
  ⟨Memory.wf_nil, by decide, by decide, List.forall_mem_nil _⟩

/-- Reset leaves the invariant whatever the state before, for a program that fits. -/
theorem resetWith_inv {inp : ResetInputs} (hp : inp.program.length ≤ 3584) (s : State) : (s.resetWith inp).Inv := by
  obtain ⟨-, hi, hpc, hst⟩ := resetMeetsInvariant
  exact ⟨wf_resetImage (decide_eq_true hp), hi, hpc, hst⟩

/-- Settles O29: by cases on the operation served; a Step from a fetch inside the memory has its advanced pc at most
0x1000, which bounds the pushed return address, the skips and the rewind. -/
theorem stepKeepsInvariant : Obligations.StepKeepsInvariant := by
  intro s t hs h
  rcases step_next h with ⟨k, r, q, d, hf⟩ | ⟨q, d, rfl⟩ | ⟨inp, q, -, hp, rfl⟩
  · exact fetchExecute_inv hf hs
  · exact hs
  · exact resetWith_inv hp _

end Sys2Proof.Machine
end

/-! ### What no instruction reads -/

section
namespace Sys2Proof.Machine

/-- `s` with other values of `halted` and of the two sampled inputs. -/
def State.overlay (s : State) (b : Bool) (k : BitVec 16) (r : Byte) : State :=
  { s with halted := b, keys := k, rnd := r }

/-- The instruction is a jump to its own address (R111, R117). -/
def selfJump (i : Instr) (s : State) : Bool :=
  match i with
  | .jp nnn => nnn.setWidth 16 == s.instrAddr
  | .jpV0 nnn => s.jumpTarget nnn == s.instrAddr
  | _ => false

theorem mapNext_mapNext (f g : State → State) (o : Host.Outcome State Fault Refusal) :
    mapNext f (mapNext g o) = mapNext (fun t => f (g t)) o := by
  cases o <;> rfl

section
variable (s : State) (b : Bool) (k : BitVec 16) (r : Byte)

/-! The shared operations that branch or loop do the same under an overlay. -/

theorem State.skipIf_overlay (c : Bool) : (s.overlay b k r).skipIf c = (s.skipIf c).overlay b k r := by
  cases c <;> rfl

theorem State.jumpTo_overlay (a : Word) :
    (s.overlay b k r).jumpTo a = (s.jumpTo a).overlay (a == s.instrAddr || b) k r := by
  rw [Bool.or_comm]
  rfl

theorem State.popPc_overlay : (s.overlay b k r).popPc = s.popPc.overlay b k r := by
  rcases s with ⟨v, i, pc, stack⟩
  cases stack <;> rfl

theorem State.checked_overlay {f : State → State} (hf : f (s.overlay b k r) = (f s).overlay b k r) (ok : Bool) :
    (s.overlay b k r).checked ok f = (s.checked ok f).overlay b k r := by
  cases ok with
  | false => rfl
  | true => exact hf

theorem State.storeBlock_overlay (n : Nat) : (s.overlay b k r).storeBlock n = (s.storeBlock n).overlay b k r :=
  List.foldl_hom (fun t : State => t.overlay b k r) (fun _ _ => rfl)

theorem State.loadBlock_overlay (n : Nat) : (s.overlay b k r).loadBlock n = (s.loadBlock n).overlay b k r :=
  List.foldl_hom (fun t : State => t.overlay b k r) (fun _ _ => rfl)

end

/-- An instruction does the same under an overlay that keeps the inputs it reads; `halted` it can only set, by a jump to
itself. -/
theorem exec_overlay (i : Instr) (s : State) (b : Bool) (k : BitVec 16) (r : Byte)
    (hk : readsKeys i = true → k = s.keys) (hr : readsRnd i = true → r = s.rnd) :
    exec i (s.overlay b k r) = mapNext (fun t => t.overlay (selfJump i s || b) k r) (exec i s) := by
  cases i with
  | ret => exact congrArg _ (s.popPc_overlay b k r)
  | jp | jpV0 => exact congrArg _ (s.jumpTo_overlay b k r _)
  | seImm | sneImm | seReg | sneReg => exact congrArg _ (s.skipIf_overlay b k r _)
  | skp | sknp =>
    obtain rfl := hk rfl
    exact congrArg _ (s.skipIf_overlay b _ r _)
  | ldVxK x =>
    obtain rfl := hk rfl
    show _ = Host.Outcome.next (State.overlay (if s.keys = 0 then _ else _) _ _ _)
    rw [apply_ite (fun t : State => t.overlay _ _ _)]
    rfl
  | rnd x nn =>
    obtain rfl := hr rfl
    rfl
  | drw | ldB => exact congrArg _ (s.checked_overlay b k r rfl _)
  | stRegs x =>
    exact congrArg _ (s.checked_overlay b k r (congrArg (·.setI (s.bulkIndex x)) (s.storeBlock_overlay b k r _)) _)
  | ldRegs x =>
    exact congrArg _ (s.checked_overlay b k r (congrArg (·.setI (s.bulkIndex x)) (s.loadBlock_overlay b k r _)) _)
  | _ => rfl

/-- The bit `halted` forgotten, in a claim up to it. -/
abbrev State.forgetHalted (s : State) : State := { s with halted := false }

theorem exec_haltedUnread (i : Instr) (s : State) (b : Bool) :
    mapNext State.forgetHalted (exec i { s with halted := b }) = mapNext State.forgetHalted (exec i s) := by
  have key (b : Bool) : mapNext State.forgetHalted (exec i (s.overlay b s.keys s.rnd)) =
      mapNext (fun t => t.overlay false s.keys s.rnd) (exec i s) := by
    rw [exec_overlay _ _ _ _ _ (fun _ => rfl) (fun _ => rfl), mapNext_mapNext]
    rfl
  exact (key b).trans (key s.halted).symm

theorem fetchExecute_haltedUnread (s : State) (b : Bool) :
    mapNext State.forgetHalted (fetchExecute { s with halted := b }) =
      mapNext State.forgetHalted (fetchExecute s) := by
  have hword : State.fetchWord { s with halted := b } = s.fetchWord := rfl
  unfold fetchExecute
  rw [hword]
  cases inRange s.pc.toNat 2 with
  | false => rfl
  | true =>
    cases decodeWord s.fetchWord with
    | none => rfl
    | some i => exact exec_haltedUnread i s.advance b

/-- Which operation comes next, and its inputs, do not depend on `halted`. -/
theorem State.NextIsStep.setHalted {s u : State} {k : BitVec 16} {r : Byte} (h : s.NextIsStep k r u) (b : Bool) :
    State.NextIsStep { s with halted := b } k r { u with halted := b } := by
  rcases h with ⟨rest, hq, rfl⟩ | ⟨hq, hk, hr, rfl⟩
  · exact .inl ⟨rest, hq, rfl⟩
  · exact .inr ⟨hq, hk, hr, rfl⟩

/-- Settles O15: the same operation is served whatever `halted` holds, and no operation reads it. -/
theorem haltedIsUnread : Obligations.HaltedIsUnread := by
  intro s b
  rcases step_cases s with ⟨k, r, u, hu, e⟩ | ⟨q, hq, e⟩ | ⟨q, hq, hf, e⟩ | ⟨inp, q, hq, e⟩ <;> rw [e]
  · rw [step_of_nextIsStep (hu.setHalted b)]
    exact fetchExecute_haltedUnread (u.sample k r) b
  · rw [step_of_tick (s := { s with halted := b }) hq]
    rfl
  · rw [step_of_free_tick (s := { s with halted := b }) hq hf]
    rfl
  · rw [step_of_reset (s := { s with halted := b }) hq]
    rfl

theorem exec_keysUnread {i : Instr} (hi : readsKeys i = false) (s : State) (k : BitVec 16) :
    mapNext (fun t => { t with keys := 0 }) (exec i { s with keys := k }) =
      mapNext (fun t => t.overlay (selfJump i s || s.halted) 0 s.rnd) (exec i s) := by
  have e := exec_overlay i s s.halted k s.rnd (fun h => nomatch hi.symm.trans h) (fun _ => rfl)
  exact (congrArg _ e).trans (mapNext_mapNext _ _ _)

theorem exec_rndUnread {i : Instr} (hi : readsRnd i = false) (s : State) (r : Byte) :
    mapNext (fun t => { t with rnd := 0 }) (exec i { s with rnd := r }) =
      mapNext (fun t => t.overlay (selfJump i s || s.halted) s.keys 0) (exec i s) := by
  have e := exec_overlay i s s.halted s.keys r (fun _ => rfl) (fun h => nomatch hi.symm.trans h)
  exact (congrArg _ e).trans (mapNext_mapNext _ _ _)

/-- Settles O18: up to the sample, the outcome under any sample is the one under the sample the state holds. -/
theorem inputsReadOnlyByTheirInstructions : Obligations.InputsReadOnlyByTheirInstructions := fun _ s =>
  ⟨fun hi k => (exec_keysUnread hi s k).trans (exec_keysUnread hi s s.keys).symm,
    fun hi r => (exec_rndUnread hi s r).trans (exec_rndUnread hi s s.rnd).symm⟩

end Sys2Proof.Machine
end

/-! ### V[15] as the flag register (R22) -/

section
namespace Sys2Proof.Machine

variable {i : Instr} {s t : State}

theorem flagByte_eq_zero_or_one (b : Bool) : flagByte b = 0 ∨ flagByte b = 1 := by
  cases b
  · exact .inl rfl
  · exact .inr rfl

theorem readV_writeFlag_eq_zero_or_one (s : State) (b : Bool) :
    (s.writeFlag b).readV 15 = 0 ∨ (s.writeFlag b).readV 15 = 1 := by
  rw [State.writeFlag, State.readV_writeV_self]
  exact flagByte_eq_zero_or_one b

/-- A flag-writing instruction writes the flag last, or is a DXYN that reports (R130, R166, R181). -/
theorem exec_flag (h : exec i s = .next t) (hw : writesFlag i = true) :
    (t.readV 15 = 0 ∨ t.readV 15 = 1) ∧ t.reported = s.reported ∨
      (∃ x y n, i = .drw x y n) ∧ t.reported ≠ s.reported := by
  cases i with
  | addReg | sub | shr | subn | shl | addI => cases h; exact .inl ⟨readV_writeFlag_eq_zero_or_one _ _, rfl⟩
  | drw x y n =>
    cases h
    rcases s.checked_cases (n == 0 || inRange s.i.toNat n.toNat) _ with ⟨-, e⟩ | ⟨-, e⟩ <;> rw [e]
    · exact .inl ⟨readV_writeFlag_eq_zero_or_one _ _, rfl⟩
    · exact .inr ⟨⟨x, y, n, rfl⟩, List.cons_ne_self _ _⟩
  | _ => cases hw

theorem eq_of_readV_writeV_ne {x y : Nibble} {b : Byte} (h : (s.writeV x b).readV y ≠ s.readV y) : x = y := by
  by_contra hne
  exact h (State.readV_writeV_other s b (Ne.symm hne))

/-- FX65 changes V[15] with X = 15 only. -/
theorem eq_of_readV_loadBlock_ne {x : Nibble} (h : (s.loadBlock (x.toNat + 1)).readV 15 ≠ s.readV 15) : x = 15 := by
  have hx := x.isLt
  rw [State.loadBlock_readV s (by omega)] at h
  have hlt : (15 : Nibble).toNat < x.toNat + 1 := by
    by_contra hge
    exact h (if_neg hge)
  apply BitVec.eq_of_toNat_eq
  simp only [show (15 : Nibble).toNat = 15 from rfl] at hlt ⊢
  omega

/-- Settles O21. An instruction that writes no flag and changes V[15] writes registers, and all of those but FX65 write
one register, their destination. -/
theorem flagRegisterIsAlwaysWritten : Obligations.FlagRegisterIsAlwaysWritten := by
  intro i s t h
  refine ⟨fun hw hrep => ?_, fun hw hdrw => ?_, fun hw hne => ?_⟩
  · rcases exec_flag h hw with ⟨hflag, -⟩ | ⟨-, hrep'⟩
    · exact hflag
    · exact absurd hrep hrep'
  · rcases exec_flag h hw with ⟨-, hrep⟩ | ⟨⟨x, y, n, hi⟩, -⟩
    · exact hrep
    · exact absurd hi (hdrw x y n)
  · cases hv : writesV i with
    | false => exact absurd (by simp only [State.readV, (exec_frame h).v hv]) hne
    | true =>
      cases i with
      | ldImm | addImm | rnd | ldReg | or | and | xor | ldVxDt =>
        cases h
        obtain rfl := eq_of_readV_writeV_ne hne
        simp
      | ldVxK =>
        cases h
        split at hne
        · exact absurd rfl hne
        · obtain rfl := eq_of_readV_writeV_ne hne
          simp
      | ldRegs x =>
        cases h
        rcases s.checked_cases (inRange s.i.toNat (x.toNat + 1)) _ with ⟨-, e⟩ | ⟨-, e⟩ <;> rw [e] at hne
        · obtain rfl := eq_of_readV_loadBlock_ne hne
          simp
        · exact absurd rfl hne
      | addReg | sub | shr | subn | shl | addI | drw => cases hw
      | _ => cases hv

end Sys2Proof.Machine
end

/-! ## Memory: 20_memory.md

The memory a Reset leaves, the program that does not fit, and a store that the next fetch sees. -/

/-! ### Reset (R52 to R54) -/

section
namespace Sys2Proof.Machine

variable {s : State} {inp : ResetInputs} {q : List Request}

theorem step_of_reset_fits (hq : s.requests = .reset inp :: q) (hp : inp.program.length ≤ 3584) :
    step s = .next (State.resetWith { s with requests := q } inp) := by
  rcases reset_cases inp { s with requests := q } with ⟨-, e⟩ | ⟨hlong, -⟩
  · exact (step_of_reset hq).trans e
  · omega

/-- Settles O26: of the two outcomes of serving a Reset only the refusal is left. -/
theorem resetRefusesLongProgram : Obligations.ResetRefusesLongProgram := by
  intro s inp q hq hlong
  rcases reset_cases inp { s with requests := q } with ⟨hp, -⟩ | ⟨-, e⟩
  · omega
  · exact (step_of_reset hq).trans e

/-- Outside 0x050 to 0x09F an unlisted address reads as the fill (R52). -/
theorem unlistedByte_of_outside_font {a : Nat} (h : a < 0x050 ∨ 0x0A0 ≤ a) : unlistedByte a = 0 := by
  rw [unlistedByte, if_neg (by simp only [Config.fontBase, Config.fontSize]; omega)]

/-- The memory with the font written and no program yet is canonical. -/
theorem wf_fontImage (font : Vector Byte Config.fontSize) :
    (Memory.writeBytes [] Config.fontBase font.toList).wf = true :=
  Memory.wf_writeBytes Memory.wf_nil _ _ (by rw [Vector.length_toList]; decide)

/-- The program, written last, from 0x200 on (R54). -/
theorem resetImage_read_program (hp : inp.program.length ≤ 3584) {j : Nat} (hj : j < inp.program.length) :
    (resetImage inp).read (0x200 + j) = inp.program[j] :=
  Memory.read_writeBytes (wf_fontImage inp.font) _ _ (by simp only [Config.progBase]; omega) j hj

/-- The font, which ends below the program (R53). -/
theorem resetImage_read_font {j : Nat} (hj : j < 80) : (resetImage inp).read (0x050 + j) = inp.font[j] := by
  rw [resetImage, Memory.read_writeBytes_outside _ _ _ (by simp only [Config.progBase]; omega),
    Memory.read_writeBytes Memory.wf_nil _ _ (by rw [Vector.length_toList]; decide) j (by rwa [Vector.length_toList]),
    Vector.getElem_toList]

/-- Neither font nor program: the fill (R52). -/
theorem resetImage_read_fill {a : Nat}
    (ha : a < 0x050 ∨ (0x0A0 ≤ a ∧ a < 0x200) ∨ 0x200 + inp.program.length ≤ a) : (resetImage inp).read a = 0 := by
  rw [resetImage, Memory.read_writeBytes_outside _ _ _ (by simp only [Config.progBase]; omega),
    Memory.read_writeBytes_outside _ _ _ (by simp only [Config.fontBase, Config.fontSize, Vector.length_toList]; omega)]
  exact unlistedByte_of_outside_font (by omega)

/-- Settles O25: Reset's image read on each of its three ranges. -/
theorem resetMemoryImage : Obligations.ResetMemoryImage := by
  intro s inp q hq hp
  exact ⟨_, step_of_reset_fits hq hp, fun _ hj => resetImage_read_program hp hj, fun _ hj => resetImage_read_font hj,
    fun _ ha => resetImage_read_fill ha⟩

end Sys2Proof.Machine
end

/-! ### A store and the next fetch (R66) -/

section
namespace Sys2Proof.Machine

variable {x : Nibble} {s : State}

/-- FX55 with its block inside the memory (R164). -/
theorem exec_stRegs_of_fits (hr : s.i.toNat + x.toNat ≤ 0xFFF) :
    exec (.stRegs x) s = .next ((s.storeBlock (x.toNat + 1)).setI (s.bulkIndex x)) := by
  have hin : inRange s.i.toNat (x.toNat + 1) = true := (inRange_iff _ _).2 (by omega)
  simp only [exec, execStRegs, State.checked, hin, if_true]

/-- Settles O30: a fetch reads memory afresh, and with X at least 1 the block covers both bytes at `I`. -/
theorem storeIsSeenByNextFetch : Obligations.StoreIsSeenByNextFetch := by
  intro x s hm hx hr
  have hx' : x.toNat ≠ 0 := fun h => hx (BitVec.eq_of_toNat_eq h)
  refine ⟨_, exec_stRegs_of_fits hr, ?_⟩
  have hread : ∀ j < x.toNat + 1,
      (s.storeBlock (x.toNat + 1)).mem.read (s.i.toNat + j) = s.readV (BitVec.ofNat 4 j) :=
    fun j hj => s.storeBlock_read hm (by omega) hj
  exact congrArg₂ wordOf (hread 0 (by omega)) (hread 1 (by omega))

end Sys2Proof.Machine
end

/-! ## Encoding: 30_encoding.md

The rows of the opcode map exclude each other, so the row that accepts a word is the one the decoder takes. -/

/-! ### The rows exclude each other (R94) -/

section
namespace Sys2Proof

variable {op : Word} {r r' : Row}

/-- The patterns of two rows differ in a bit that both masks test. -/
def Row.Excludes (r r' : Row) : Prop := r.pat &&& r'.mask ≠ r'.pat &&& r.mask

theorem Row.accepts_iff : r.accepts op = true ↔ op &&& r.mask = r.pat := beq_iff_eq

theorem Row.Excludes.not_both (h : r.Excludes r') (hr : r.accepts op = true) (hr' : r'.accepts op = true) : False := by
  rw [Row.accepts_iff] at hr hr'
  apply h
  rw [← hr, ← hr', BitVec.and_assoc, BitVec.and_assoc, BitVec.and_comm r.mask]

theorem opcodeRows_exclude : opcodeRows.Pairwise Row.Excludes := by
  unfold Row.Excludes
  decide

/-- Settles O4: of two rows that accept the word, the earlier would exclude the later. -/
theorem opcodeRowsNeverOverlap : Obligations.OpcodeRowsNeverOverlap := by
  intro op
  have hp := opcodeRows_exclude.filter (fun r => r.accepts op)
  have hacc : ∀ r ∈ opcodeRows.filter (fun r => r.accepts op), r.accepts op = true :=
    fun r hr => (List.mem_filter.1 hr).2
  cases hl : opcodeRows.filter (fun r => r.accepts op) with
  | nil => simp
  | cons r l =>
    cases l with
    | nil => simp
    | cons r' l =>
      rw [hl] at hp hacc
      have hex : r.Excludes r' := List.rel_of_pairwise_cons hp (by simp)
      exact (hex.not_both (hacc r (by simp)) (hacc r' (by simp))).elim

/-- The row that accepts the word is the one the decoder takes. -/
theorem decodeWord_of_accepts (hr : r ∈ opcodeRows) (h : r.accepts op = true) : decodeWord op = some (r.build op) := by
  have hmem : r ∈ opcodeRows.filter (fun r => r.accepts op) := List.mem_filter.2 ⟨hr, h⟩
  have hone : opcodeRows.filter (fun r => r.accepts op) = [r] := by
    obtain ⟨r', hr'⟩ := List.length_eq_one_iff.1
      ((opcodeRowsNeverOverlap op).antisymm (List.length_pos_of_mem hmem))
    rw [hr', List.mem_singleton] at hmem
    rw [hr', hmem]
  rw [decodeWord, ← List.head?_filter, hone]
  rfl

theorem decodeWord_eq_some_iff {i : Instr} :
    decodeWord op = some i ↔ ∃ r ∈ opcodeRows, r.accepts op = true ∧ r.build op = i := by
  constructor
  · intro h
    obtain ⟨r, hr, hi⟩ := Option.map_eq_some_iff.1 h
    exact ⟨r, List.mem_of_find?_eq_some hr, List.find?_some (p := fun r : Row => r.accepts op) hr, hi⟩
  · rintro ⟨r, hr, h, rfl⟩
    exact decodeWord_of_accepts hr h

/-- Settles O3: each row with its instruction as the row that accepts the word. -/
theorem opcodeMap : Obligations.OpcodeMap := by
  intro op
  have row (n : Nat) (hn : n < opcodeRows.length := by decide) (h : op &&& opcodeRows[n].mask = opcodeRows[n].pat) :
      decodeWord op = some (opcodeRows[n].build op) :=
    decodeWord_of_accepts (List.getElem_mem hn) (Row.accepts_iff.2 h)
  exact ⟨row 0, row 1, row 2, row 3, row 4, row 5, row 6, row 7, row 8, row 9, row 10, row 11, row 12, row 13,
    row 14, row 15, row 16, row 17, row 18, row 19, row 20, row 21, row 22, row 23, row 24, row 25, row 26, row 27,
    row 28, row 29, row 30, row 31, row 32, row 33⟩

end Sys2Proof
end

/-! ### Words from instructions and back (R83) -/

section
namespace Sys2Proof

open Laws

variable {op : Word}

/-- The row at the instruction's position accepts the instruction's word, for every instruction. -/
theorem encode_accepted : ∀ i : Instr, Accepted.Statement i
  | .cls => Accepted.cls | .ret => Accepted.ret | .jp _ => Accepted.jp _ | .call _ => Accepted.call _
  | .seImm _ _ => Accepted.seImm _ _ | .sneImm _ _ => Accepted.sneImm _ _ | .seReg _ _ _ => Accepted.seReg _ _ _
  | .ldImm _ _ => Accepted.ldImm _ _ | .addImm _ _ => Accepted.addImm _ _ | .ldReg _ _ => Accepted.ldReg _ _
  | .or _ _ => Accepted.or _ _ | .and _ _ => Accepted.and _ _ | .xor _ _ => Accepted.xor _ _
  | .addReg _ _ => Accepted.addReg _ _ | .sub _ _ => Accepted.sub _ _ | .shr _ _ => Accepted.shr _ _
  | .subn _ _ => Accepted.subn _ _ | .shl _ _ => Accepted.shl _ _ | .sneReg _ _ _ => Accepted.sneReg _ _ _
  | .ldI _ => Accepted.ldI _ | .jpV0 _ => Accepted.jpV0 _ | .rnd _ _ => Accepted.rnd _ _
  | .drw _ _ _ => Accepted.drw _ _ _ | .skp _ => Accepted.skp _ | .sknp _ => Accepted.sknp _
  | .ldVxDt _ => Accepted.ldVxDt _ | .ldVxK _ => Accepted.ldVxK _ | .ldDtVx _ => Accepted.ldDtVx _
  | .ldStVx _ => Accepted.ldStVx _ | .addI _ => Accepted.addI _ | .ldF _ => Accepted.ldF _ | .ldB _ => Accepted.ldB _
  | .stRegs _ => Accepted.stRegs _ | .ldRegs _ => Accepted.ldRegs _

/-- The row at the instruction's position reads from its word each operand the word was built from. -/
theorem build_encode (i : Instr) : (opcodeRows[Accepted.row i]?).map (fun r => r.build (encode i)) = some i := by
  cases i with
  | cls | ret => rfl
  | jp | call | ldI | jpV0 => exact congrArg some (by simp only [encode, opNNN_nnn])
  | seImm | sneImm | ldImm | addImm | rnd => exact congrArg some (by simp only [encode, opX_xnn, opNN_xnn])
  | seReg | sneReg | drw => exact congrArg some (by simp only [encode, opX_xyn, opY_xyn, opN_xyn])
  | ldReg | or | and | xor | addReg | sub | shr | subn | shl =>
    exact congrArg some (by simp only [encode, opX_xyn, opY_xyn])
  | skp | sknp | ldVxDt | ldVxK | ldDtVx | ldStVx | addI | ldF | ldB | stRegs | ldRegs =>
    exact congrArg some (by simp only [encode, opX_xnn])

theorem decodeWord_encode (i : Instr) : decodeWord (encode i) = some i := by
  obtain ⟨r, hr, hacc⟩ := Option.map_eq_some_iff.1 (encode_accepted i)
  have hbuild := build_encode i
  rw [hr] at hbuild
  exact (decodeWord_of_accepts (List.mem_of_getElem? hr) hacc).trans hbuild

/-- Settles O1: the two bytes make the instruction's word again, and the word decodes to the instruction. -/
theorem decodeEncodeRoundTrip : Obligations.DecodeEncodeRoundTrip := by
  intro i rest
  simp only [encodeBytes, List.cons_append, List.nil_append, decode, wordOf_bytes, decodeWord_encode]

/-- Decoding two bytes answers an instruction when their word does. -/
theorem decodeWord_of_decode {hi lo : Byte} {bs rest : List Byte} {i : Instr}
    (h : decode (hi :: lo :: bs) = .instr i rest) :
    decodeWord (wordOf hi lo) = some i := by
  rw [decode] at h
  cases hd : decodeWord (wordOf hi lo) with
  | none => rw [hd] at h; cases h
  | some j => rw [hd] at h; cases h; rfl

/-! A word is put together again from its fields, in each of R83's formats. -/

theorem word_of_xnn (op : Word) : (opG op ++ opX op ++ opNN op : Word) = op :=
  calc (opG op ++ opX op ++ opNN op : Word)
    _ = opG op ++ (opX op ++ opNN op) := BitVec.append_assoc
    _ = op := by rw [nnn_of_xnn, word_of_nnn]

theorem word_of_xyn (op : Word) : (opG op ++ opX op ++ opY op ++ opN op : Word) = op :=
  calc (opG op ++ opX op ++ opY op ++ opN op : Word)
    _ = opG op ++ opX op ++ (opY op ++ opN op) := BitVec.append_assoc
    _ = op := by rw [nn_of_yn, word_of_xnn]

variable {p : Word} {b : Word → Instr}

theorem word_of_accepts_full (h : Row.accepts ⟨0xFFFF, p, b⟩ op = true) : p = op := by
  rw [accepts_FFFF, decide_eq_true_eq] at h
  exact h.symm

theorem word_of_accepts_nnn (g : Nibble) (h : Row.accepts ⟨0xF000, g ++ 0#12, b⟩ op = true) :
    g ++ opNNN op = op := by
  rw [accepts_F000, decide_eq_true_eq] at h
  rw [← h, word_of_nnn]

theorem word_of_accepts_xnn (g : Nibble) (h : Row.accepts ⟨0xF000, g ++ 0#12, b⟩ op = true) :
    g ++ opX op ++ opNN op = op := by
  rw [accepts_F000, decide_eq_true_eq] at h
  rw [← h, word_of_xnn]

theorem word_of_accepts_xyn (g : Nibble) (h : Row.accepts ⟨0xF000, g ++ 0#12, b⟩ op = true) :
    g ++ opX op ++ opY op ++ opN op = op := by
  rw [accepts_F000, decide_eq_true_eq] at h
  rw [← h, word_of_xyn]

theorem word_of_accepts_xy (g n : Nibble) (h : Row.accepts ⟨0xF00F, g ++ 0#8 ++ n, b⟩ op = true) :
    g ++ opX op ++ opY op ++ n = op := by
  rw [accepts_F00F, decide_eq_true_eq] at h
  rw [← h.1, ← h.2, word_of_xyn]

theorem word_of_accepts_x (g : Nibble) (nn : Byte) (h : Row.accepts ⟨0xF0FF, g ++ 0#4 ++ nn, b⟩ op = true) :
    g ++ opX op ++ nn = op := by
  rw [accepts_F0FF, decide_eq_true_eq] at h
  rw [← h.1, ← h.2, word_of_xnn]

/-- Each row keeps in its instruction every bit that its mask leaves open. -/
theorem encode_build : ∀ r ∈ opcodeRows, r.accepts op = true → encode (r.build op) = op := by
  simp only [opcodeRows, rowsLow, rowsGroup8, rowsHigh, rowsGroupEF, List.cons_append, List.nil_append,
    List.forall_mem_cons]
  refine ⟨word_of_accepts_full, word_of_accepts_full, word_of_accepts_nnn 0x1, word_of_accepts_nnn 0x2,
    word_of_accepts_xnn 0x3, word_of_accepts_xnn 0x4, word_of_accepts_xyn 0x5, word_of_accepts_xnn 0x6,
    word_of_accepts_xnn 0x7, ?_⟩
  refine ⟨word_of_accepts_xy 0x8 0x0, word_of_accepts_xy 0x8 0x1, word_of_accepts_xy 0x8 0x2,
    word_of_accepts_xy 0x8 0x3, word_of_accepts_xy 0x8 0x4, word_of_accepts_xy 0x8 0x5, word_of_accepts_xy 0x8 0x6,
    word_of_accepts_xy 0x8 0x7, word_of_accepts_xy 0x8 0xE, ?_⟩
  refine ⟨word_of_accepts_xyn 0x9, word_of_accepts_nnn 0xA, word_of_accepts_nnn 0xB, word_of_accepts_xnn 0xC,
    word_of_accepts_xyn 0xD, ?_⟩
  exact ⟨word_of_accepts_x 0xE 0x9E, word_of_accepts_x 0xE 0xA1, word_of_accepts_x 0xF 0x07,
    word_of_accepts_x 0xF 0x0A, word_of_accepts_x 0xF 0x15, word_of_accepts_x 0xF 0x18, word_of_accepts_x 0xF 0x1E,
    word_of_accepts_x 0xF 0x29, word_of_accepts_x 0xF 0x33, word_of_accepts_x 0xF 0x55, word_of_accepts_x 0xF 0x65,
    List.forall_mem_nil _⟩

/-- Settles O2: the word is the one its row's instruction encodes. -/
theorem encodeDecodeRoundTrip : Obligations.EncodeDecodeRoundTrip := by
  intro op i h
  obtain ⟨r, hr, hacc, rfl⟩ := decodeWord_eq_some_iff.1 h
  exact encode_build r hr hacc

end Sys2Proof
end

/-! ### The unmatched words (R89) -/

section
namespace Sys2Proof

/-! The fields of R82 as quotients and remainders of the word. -/

theorem opG_eq_iff (op : Word) (g : Nibble) : opG op = g ↔ op.toNat / 4096 = g.toNat := by
  rw [← BitVec.toNat_inj, opG, BitVec.extractLsb'_toNat, Nat.shiftRight_eq_div_pow]
  have hlt := op.isLt
  omega

theorem opN_eq_iff (op : Word) (n : Nibble) : opN op = n ↔ op.toNat % 16 = n.toNat := by
  rw [← BitVec.toNat_inj, opN, BitVec.extractLsb'_toNat, Nat.shiftRight_zero]

theorem opNN_eq_iff (op : Word) (nn : Byte) : opNN op = nn ↔ op.toNat % 256 = nn.toNat := by
  rw [← BitVec.toNat_inj, opNN, BitVec.extractLsb'_toNat, Nat.shiftRight_zero]

/-- Settles O5: a word decodes to nothing when it fails every row's test, and groups 0, 8, E and F alone have words that
do. -/
theorem unmatchedWordsExactly : Obligations.UnmatchedWordsExactly := by
  intro op
  have hgroup : op.toNat / 4096 < 16 := by have hlt := op.isLt; omega
  simp only [decodeWord_eq, ite_eq_iff, reduceCtorEq, and_false, false_or, opG_eq_iff, opN_eq_iff, opNN_eq_iff,
    ← BitVec.toNat_inj (x := op), BitVec.reduceToNat, List.mem_cons, List.not_mem_nil]
  generalize hg : op.toNat / 4096 = g at hgroup ⊢
  by_cases hsplit : g = 0 ∨ g = 8 ∨ g = 14 ∨ g = 15
  · rcases hsplit with rfl | rfl | rfl | rfl
    all_goals
      simp only [Nat.reduceEqDiff, false_and, true_and, and_true, or_false, false_or, not_false_eq_true]
      omega
  · interval_cases g <;> simp at hsplit ⊢

end Sys2Proof
end

/-! ### Words the spec writes out -/

section
namespace Sys2Proof

/-- Settles O6: fourteen fixed words, each run through the decoder. -/
theorem specWordsDecode : Obligations.SpecWordsDecode := by
  unfold Obligations.SpecWordsDecode
  decide

end Sys2Proof
end

/-! ### The ignored nibble (R88) -/

section
namespace Sys2Proof

open Machine

variable {op : Word} {i : Instr}

/-! Groups 5 and 9 have one row each, which takes every word of the group. -/

theorem exec_of_group5 (h : opG op = 5) (hi : decodeWord op = some i) (s : State) :
    exec i s = .next (s.skipIf (s.readV (opX op) == s.readV (opY op))) := by
  have hd : decodeWord op = some (.seReg (opX op) (opY op) (opN op)) :=
    decodeWord_of_accepts (r := ⟨0xF000, 0x5000, fun op => .seReg (opX op) (opY op) (opN op)⟩)
      (List.mem_of_getElem? (i := 6) rfl) ((accepts_F000 op 5 _).trans (decide_eq_true h))
  cases hd.symm.trans hi
  rfl

theorem exec_of_group9 (h : opG op = 9) (hi : decodeWord op = some i) (s : State) :
    exec i s = .next (s.skipIf (s.readV (opX op) != s.readV (opY op))) := by
  have hd : decodeWord op = some (.sneReg (opX op) (opY op) (opN op)) :=
    decodeWord_of_accepts (r := ⟨0xF000, 0x9000, fun op => .sneReg (opX op) (opY op) (opN op)⟩)
      (List.mem_of_getElem? (i := 18) rfl) ((accepts_F000 op 9 _).trans (decide_eq_true h))
  cases hd.symm.trans hi
  rfl

/-- The twelve high bits of a word are its first three fields. -/
theorem high12_eq (op : Word) : op.extractLsb' 4 12 = opG op ++ opX op ++ opY op := by
  conv_lhs => rw [← word_of_xyn op]
  exact BitVec.extractLsb'_append_eq_left

/-- Settles O7: the word with the other nibble has the same group and registers, and the skip depends on these alone. -/
theorem ignoredNibbleHasNoEffect : Obligations.IgnoredNibbleHasNoEffect := by
  intro op m s i j hgroup hi hj
  rw [high12_eq] at hj
  have hg : opG op = 5 ∨ opG op = 9 := hgroup
  rcases hg with h | h
  · rw [exec_of_group5 h hi, exec_of_group5 (by rw [opG_xyn, h]) hj, opX_xyn, opY_xyn]
  · rw [exec_of_group9 h hi, exec_of_group9 (by rw [opG_xyn, h]) hj, opX_xyn, opY_xyn]

end Sys2Proof
end

/-! ### The Step (R85) -/

section
namespace Sys2Proof.Machine

variable {s u : State} {k : BitVec 16} {r : Byte} {i : Instr}

/-- Line 2 of R85: a word can be fetched at every pc up to 0x0FFE. -/
theorem inRange_pc_iff (s : State) : inRange s.pc.toNat 2 = true ↔ s.pc.toNat ≤ 0x0FFE := by
  rw [inRange_iff]
  omega

theorem fetchExecute_of_outside (h : 0x0FFE < s.pc.toNat) :
    fetchExecute s = .next (s.raise (.outOfBoundsAddress (firstOutside s.pc))) := by
  have hr : inRange s.pc.toNat 2 = false := by rw [← Bool.not_eq_true, inRange_pc_iff]; omega
  simp only [fetchExecute, hr, Bool.false_eq_true, if_false]

theorem fetchExecute_of_unmatched (h : s.pc.toNat ≤ 0x0FFE) (hd : decodeWord s.fetchWord = none) :
    fetchExecute s = .next (s.advance.raise (.unmatchedOpcode s.fetchWord)) := by
  simp only [fetchExecute, (inRange_pc_iff s).2 h, if_true, hd]

theorem fetchExecute_of_matched (h : s.pc.toNat ≤ 0x0FFE) (hd : decodeWord s.fetchWord = some i) :
    fetchExecute s = exec i s.advance := by
  simp only [fetchExecute, (inRange_pc_iff s).2 h, if_true, hd]

/-- A Step whose word a row matches is the row's instruction, executed after lines 1 and 4 of R85. -/
theorem step_of_matched (hu : s.NextIsStep k r u) (h : s.pc.toNat ≤ 0x0FFE) (hd : decodeWord s.fetchWord = some i) :
    step s = exec i { u with pc := s.pc + 2, keys := k, rnd := r, report := .none } := by
  rw [step_of_nextIsStep hu, hu.eq_with]
  exact fetchExecute_of_matched h hd

/-- A timer that an instruction changes is one that it may write. -/
theorem timer_changed {t : State} (h : exec i s = .next t) :
    (t.dt ≠ s.dt → ∃ x, i = .ldDtVx x) ∧ (t.st ≠ s.st → ∃ x, i = .ldStVx x) := by
  have f := exec_frame h
  exact ⟨fun hne => by_contra fun hn => hne (f.dt (not_exists.1 hn)),
    fun hne => by_contra fun hn => hne (f.st (not_exists.1 hn))⟩

/-- Settles O9: the three outcomes of the fetch, and the timers by the frame of the instruction. -/
theorem stepAlgorithm : Obligations.StepAlgorithm := by
  intro s u k r hu
  refine ⟨fun hpc => ⟨firstOutside s.pc, firstOutside_toNat s.pc, ?_⟩, ?_⟩
  · rw [step_of_nextIsStep hu, hu.eq_with]
    exact fetchExecute_of_outside hpc
  · rintro hpc _ rfl
    refine ⟨fun hd => ?_, fun i hd => ?_⟩
    · rw [step_of_nextIsStep hu, hu.eq_with]
      exact fetchExecute_of_unmatched hpc hd
    · have hstep := step_of_matched hu hpc hd
      refine ⟨hstep, fun t ht => ?_⟩
      have htimers := timer_changed (hstep.symm.trans ht)
      rw [hu.eq_with] at htimers
      exact htimers

/-- Settles O8: a listed Step, a Step with free inputs, and an open-ended host's Tick or Step. -/
theorem stepRunsDecodedInstruction : Obligations.StepRunsDecodedInstruction := by
  intro s i rest hpc hdec
  have hd : decodeWord s.fetchWord = some i := decodeWord_of_decode hdec
  refine ⟨fun k r q hq => step_of_matched (.inl ⟨q, hq, rfl⟩) hpc hd,
    fun hq => step_of_matched (.inr ⟨.inl hq, rfl, rfl, rfl⟩) hpc hd, fun q hq => ?_⟩
  split
  next hf => exact step_of_free_tick hq hf
  next hf => exact step_of_matched (.inr ⟨.inr ⟨⟨q, hq⟩, Bool.eq_false_of_not_eq_true hf⟩, rfl, rfl, rfl⟩) hpc hd

end Sys2Proof.Machine
end

/-! ## Control flow: 40_control_flow.md

Every meaning here ends in one of three shared operations: a skip, a jump, or a pop. -/

/-! ### Words of a group with one row (R87) -/

section
namespace Sys2Proof

variable {op : Word} {g : Nibble} {b : Word → Instr}

/-- A row that tests the group alone takes every word of its group. -/
theorem decodeWord_of_group (hr : ⟨0xF000, g ++ 0#12, b⟩ ∈ opcodeRows) (h : opG op = g) :
    decodeWord op = some (b op) :=
  decodeWord_of_accepts hr ((accepts_F000 op g b).trans (decide_eq_true h))

end Sys2Proof
end

/-! ### Skips (R113 to R116) -/

section
namespace Sys2Proof.Machine

variable (s : State) (a b : Byte)

theorem skipIf_beq : s.skipIf (a == b) = { s with pc := if a = b then s.pc + 2 else s.pc } := by
  simp only [State.skipIf_eq, beq_iff_eq]

theorem skipIf_bne : s.skipIf (a != b) = { s with pc := if a ≠ b then s.pc + 2 else s.pc } := by
  simp only [State.skipIf_eq, bne_iff_ne]

/-- Settles O35: groups 3 and 4 are rows 5 and 6 of the opcode map, and each skips on its comparison. -/
theorem immediateSkips : Obligations.ImmediateSkips :=
  ⟨fun _ h => decodeWord_of_group (List.mem_of_getElem? (i := 4) rfl) h,
    fun _ h => decodeWord_of_group (List.mem_of_getElem? (i := 5) rfl) h,
    fun x nn s => ⟨congrArg Host.Outcome.next (skipIf_beq s (s.readV x) nn),
      congrArg Host.Outcome.next (skipIf_bne s (s.readV x) nn)⟩⟩

/-- Settles O36: the nibble is no operand of the comparison. -/
theorem registerSkips : Obligations.RegisterSkips := fun x y _ s =>
  ⟨congrArg Host.Outcome.next (skipIf_beq s (s.readV x) (s.readV y)),
    congrArg Host.Outcome.next (skipIf_bne s (s.readV x) (s.readV y))⟩

end Sys2Proof.Machine
end

/-! ### Jumps (R111, R117) -/

section
namespace Sys2Proof.Machine

variable {s : State} {a w : Word} {i : Instr} {n : Nat}

/-- The bit is sticky, and set by a jump of the instruction at `a` to `a` itself (R31). -/
theorem jumpTo_halted_iff (hpc : s.pc = a + 2) : (s.jumpTo w).halted = true ↔ s.halted = true ∨ w.toNat = a.toNat := by
  have haddr : s.instrAddr = a := by rw [State.instrAddr, hpc, BitVec.add_sub_cancel]
  simp only [State.jumpTo, haddr, Bool.or_eq_true, beq_iff_eq, BitVec.toNat_inj]

/-- An instruction that jumps to `n` changes pc and `halted` only. -/
theorem exec_of_jumpTo (hi : exec i s = .next (s.jumpTo w)) (hpc : s.pc = a + 2) (hn : w.toNat = n) :
    ∃ t, exec i s = .next t ∧ t = { s with pc := t.pc, halted := t.halted } ∧ t.pc.toNat = n ∧
      (t.halted = true ↔ s.halted = true ∨ n = a.toNat) :=
  ⟨_, hi, rfl, hn, hn ▸ jumpTo_halted_iff hpc⟩

/-- BNNN's sum fits 16 bits, so it loses no carry (R117). -/
theorem jumpTarget_toNat (s : State) (nnn : Addr) :
    (s.jumpTarget nnn).toNat = nnn.toNat + (s.jumpOffset nnn).toNat := by
  have ha := nnn.isLt
  have hb := (s.jumpOffset nnn).isLt
  rw [State.jumpTarget, BitVec.toNat_add, BitVec.toNat_setWidth_of_le (by decide),
    BitVec.toNat_setWidth_of_le (by decide)]
  omega

/-- Settles O37: group B is row 21 of the opcode map, and the jump goes to the unmasked sum. -/
theorem jumpTable : Obligations.JumpTable := by
  refine ⟨fun op h => decodeWord_of_group (List.mem_of_getElem? (i := 20) rfl) h, ?_⟩
  rintro nnn s a _ hpc rfl
  exact exec_of_jumpTo rfl hpc (jumpTarget_toNat s nnn)

/-- Settles O32: the target is NNN extended with zeros. -/
theorem jumpSetsPcAndSelfLoopFlag : Obligations.JumpSetsPcAndSelfLoopFlag := fun _ _ _ hpc =>
  exec_of_jumpTo rfl hpc (BitVec.toNat_setWidth_of_le (by decide))

end Sys2Proof.Machine
end

/-! ### Call and return (R110, R112) -/

section
namespace Sys2Proof.Machine

variable {s : State} {a : Word} {rest : List Word}

theorem exec_ret_of_nil (h : s.stack = []) : exec .ret s = .next (s.raise .stackUnderflow) := by
  simp only [exec, execRet, State.popPc, h]

theorem exec_ret_of_cons (h : s.stack = a :: rest) : exec .ret s = .next { s with pc := a, stack := rest } := by
  simp only [exec, execRet, State.popPc, h]

/-- Settles O31: the empty stack and the stack with a top. -/
theorem returnPopsOrReports : Obligations.ReturnPopsOrReports :=
  ⟨fun _ _ _ h => exec_ret_of_cons h, fun _ h => exec_ret_of_nil h⟩

/-- Settles O33: the target is NNN extended with zeros. -/
theorem callPushesAdvancedPc : Obligations.CallPushesAdvancedPc := fun _ _ =>
  ⟨_, rfl, rfl, BitVec.toNat_setWidth_of_le (by decide)⟩

/-- Settles O34: the call leaves the advanced pc on top of the old stack, and the return pops it. -/
theorem callThenReturnRestoresPc : Obligations.CallThenReturnRestoresPc := by
  intro nnn s t u hcall hstack
  obtain ⟨t', hcall', hframe, -⟩ := callPushesAdvancedPc nnn s
  obtain rfl : t' = t := Host.Outcome.next.inj (hcall'.symm.trans hcall)
  have hu : u.stack = s.pc :: s.stack := hstack.trans (congrArg State.stack hframe)
  exact ⟨_, exec_ret_of_cons hu, rfl, rfl, rfl⟩

end Sys2Proof.Machine
end

/-! ## Loads, arithmetic, logic, shifts: 41_alu.md

Every meaning here ends in one of two shared operations: a register write, or a result and then a flag. -/

/-! ### Words of group 8 (R86) -/

section
namespace Sys2Proof

variable {op : Word} {g n : Nibble} {b : Word → Instr}

/-- A row that tests the group and the low nibble takes every word that has both. -/
theorem decodeWord_of_group_nibble (hr : ⟨0xF00F, g ++ 0#8 ++ n, b⟩ ∈ opcodeRows) (hg : opG op = g)
    (hn : opN op = n) : decodeWord op = some (b op) :=
  decodeWord_of_accepts hr ((accepts_F00F op g n b).trans (decide_eq_true ⟨hg, hn⟩))

end Sys2Proof
end

/-! ### The two shared writes (R130) -/

section
namespace Sys2Proof.Machine

variable {i : Instr} {s : State} {x : Nibble} {b : Byte} {f : Bool} {n : Nat}

/-- An instruction that writes `b` to V[X] changes that register only, V[15] too only when X = 15. -/
theorem exec_of_writeV (P : Byte → Prop) (hi : exec i s = .next (s.writeV x b)) (hb : P b) :
    ∃ t, exec i s = .next t ∧ t = { s with v := t.v } ∧ P (t.readV x) ∧ ∀ r, r ≠ x → t.readV r = s.readV r :=
  ⟨_, hi, rfl, (s.readV_writeV_self x b).symm ▸ hb, fun _ => s.readV_writeV_other b⟩

/-- An instruction that writes a result and then a flag changes V[X] and V[15] only, and the flag stays when X = 15. -/
theorem exec_of_writeResultFlag (P : Byte → Prop) (hi : exec i s = .next (s.writeResultFlag x b f))
    (hf : P (flagByte f)) (hb : b.toNat = n) :
    ∃ t, exec i s = .next t ∧ t = { s with v := t.v } ∧ P (t.readV 15) ∧ (x ≠ 15 → (t.readV x).toNat = n) ∧
      ∀ r, r ≠ x → r ≠ 15 → t.readV r = s.readV r := by
  refine ⟨_, hi, rfl, (s.writeResultFlag_flag x b f).symm ▸ hf, fun hx => ?_, fun r hrx hr => ?_⟩
  · rw [s.writeResultFlag_readV b f hx, if_pos rfl, hb]
  · rw [s.writeResultFlag_readV b f hr, if_neg hrx.symm]

end Sys2Proof.Machine
end

/-! ### Loads, immediate addition, logic (R131 to R136) -/

section
namespace Sys2Proof.Machine

/-- Settles O38: groups 6 and 7 and group 8 with nibble 0 are rows 8 to 10 of the opcode map, and each instruction is one
register write. -/
theorem loadAndAddImmediate : Obligations.LoadAndAddImmediate :=
  ⟨fun _ h => decodeWord_of_group (List.mem_of_getElem? (i := 7) rfl) h,
    fun _ h => decodeWord_of_group (List.mem_of_getElem? (i := 8) rfl) h,
    fun _ h hn => decodeWord_of_group_nibble (List.mem_of_getElem? (i := 9) rfl) h hn,
    fun _ nn s => ⟨exec_of_writeV (· = nn) rfl rfl,
      exec_of_writeV (·.toNat = _) rfl (addResult_toNat (s.readV _) nn)⟩,
    fun _ y s => exec_of_writeV (· = s.readV y) rfl rfl⟩

/-- Settles O39: nibbles 1 to 3 of group 8 are rows 11 to 13 of the opcode map, and each instruction writes the bitwise
result to V[X] alone. -/
theorem bitwiseLogic : Obligations.BitwiseLogic :=
  ⟨fun _ h => ⟨fun hn => decodeWord_of_group_nibble (List.mem_of_getElem? (i := 10) rfl) h hn,
      fun hn => decodeWord_of_group_nibble (List.mem_of_getElem? (i := 11) rfl) h hn,
      fun hn => decodeWord_of_group_nibble (List.mem_of_getElem? (i := 12) rfl) h hn⟩,
    fun x y s =>
      ⟨exec_of_writeV (fun c => ∀ j, c.getLsbD j = ((s.readV x).getLsbD j || (s.readV y).getLsbD j)) rfl
          (fun _ => BitVec.getLsbD_or),
        exec_of_writeV (fun c => ∀ j, c.getLsbD j = ((s.readV x).getLsbD j && (s.readV y).getLsbD j)) rfl
          (fun _ => BitVec.getLsbD_and),
        exec_of_writeV (fun c => ∀ j, c.getLsbD j = ((s.readV x).getLsbD j ^^ (s.readV y).getLsbD j)) rfl
          (fun _ => BitVec.getLsbD_xor)⟩⟩

end Sys2Proof.Machine
end

/-! ### Sums and differences with a flag (R137 to R139) -/

section
namespace Sys2Proof.Machine

/-- The flag register's value when the flag reports `c`. -/
theorem flagByte_eq_ite {f : Bool} {c : Prop} [Decidable c] (h : f = true ↔ c) : flagByte f = if c then 1 else 0 :=
  if_congr h rfl rfl

/-- The difference with 256 added to the minuend, as the statements have it (R138, R139). -/
theorem subResult_toNat_add_sub (a b : Byte) : (subResult a b).toNat = (a.toNat + 256 - b.toNat) % 256 := by
  rw [subResult_toNat, Nat.add_comm]

/-- Settles O40: the carry is set when the sum exceeds 255. -/
theorem addWithCarryOut : Obligations.AddWithCarryOut := by
  rintro x y s _ _ rfl rfl
  exact exec_of_writeResultFlag (· = _) rfl (flagByte_eq_ite (carryOut_iff _ _)) (addResult_toNat _ _)

/-- Settles O41: the flag is set when V[Y] can be taken from V[X] without a borrow. -/
theorem subtractWithNotBorrow : Obligations.SubtractWithNotBorrow := by
  rintro x y s _ _ rfl rfl
  exact exec_of_writeResultFlag (· = _) rfl (flagByte_eq_ite (notBorrow_iff _ _)) (subResult_toNat_add_sub _ _)

/-- Settles O42: the flag is set when V[X] can be taken from V[Y] without a borrow. -/
theorem reverseSubtractWithNotBorrow : Obligations.ReverseSubtractWithNotBorrow := by
  rintro x y s _ _ rfl rfl
  exact exec_of_writeResultFlag (· = _) rfl (flagByte_eq_ite (notBorrow_iff _ _)) (subResult_toNat_add_sub _ _)

end Sys2Proof.Machine
end

/-! ### Shifts (R140, R141) -/

section
namespace Sys2Proof.Machine

/-- The bit shifted out at the bottom is the remainder of the halving (R140). -/
theorem flagByte_shrOut_toNat (a : Byte) : (flagByte (shrOut a)).toNat = a.toNat % 2 := by
  rw [flagByte_eq_ite (shrOut_iff a)]
  split
  · show 1 = a.toNat % 2
    omega
  · show 0 = a.toNat % 2
    omega

/-- The bit shifted out at the top is the carry of the doubling (R141). -/
theorem flagByte_shlOut_toNat (a : Byte) : (flagByte (shlOut a)).toNat = a.toNat / 128 := by
  have ha := a.isLt
  rw [flagByte_eq_ite (shlOut_iff a)]
  split
  · show 1 = a.toNat / 128
    omega
  · show 0 = a.toNat / 128
    omega

/-- The doubling, as the statement has it (R141). -/
theorem shlResult_toNat_two_mul (a : Byte) : (shlResult a).toNat = 2 * a.toNat % 256 := by
  rw [shlResult_toNat, Nat.mul_comm]

/-- Settles O43: the source halved, and the remainder as the flag. -/
theorem shiftRightByOne : Obligations.ShiftRightByOne := by
  rintro x y s _ rfl
  exact exec_of_writeResultFlag (·.toNat = _) rfl (flagByte_shrOut_toNat (s.shiftSource x y))
    (shrResult_toNat (s.shiftSource x y))

/-- Settles O44: the source doubled modulo 256, and the bit lost as the flag. -/
theorem shiftLeftByOne : Obligations.ShiftLeftByOne := by
  rintro x y s _ rfl
  exact exec_of_writeResultFlag (·.toNat = _) rfl (flagByte_shlOut_toNat (s.shiftSource x y))
    (shlResult_toNat_two_mul (s.shiftSource x y))

end Sys2Proof.Machine
end

/-! ## Index register, loads and stores: 42_index_memory.md

Every meaning here ends in a write of `I`, or in an access of the range from `I` that is checked as a whole first. -/

/-! ### Words of group F (R86) -/

section
namespace Sys2Proof

variable {op : Word} {g : Nibble} {nn : Byte} {b : Word → Instr}

/-- A row that tests the group and the low byte takes every word that has both. -/
theorem decodeWord_of_group_byte (hr : ⟨0xF0FF, g ++ 0#4 ++ nn, b⟩ ∈ opcodeRows) (hg : opG op = g)
    (hn : opNN op = nn) : decodeWord op = some (b op) :=
  decodeWord_of_accepts hr ((accepts_F0FF op g nn b).trans (decide_eq_true ⟨hg, hn⟩))

end Sys2Proof
end

/-! ### Writes of the index register (R160 to R162) -/

section
namespace Sys2Proof.Machine

variable {i : Instr} {s : State} {a : Word} {n : Nat}

/-- An instruction that puts `n` into `I` changes `I` only. -/
theorem exec_of_setI (hi : exec i s = .next (s.setI a)) (ha : a.toNat = n) :
    ∃ t, exec i s = .next t ∧ t = { s with i := t.i } ∧ t.i.toNat = n :=
  ⟨_, hi, rfl, ha⟩

/-- Settles O45: group A and group F with byte 0x29 are rows 20 and 31 of the opcode map, and each instruction is one
write of `I`. -/
theorem indexLoads : Obligations.IndexLoads :=
  ⟨fun _ h => decodeWord_of_group (List.mem_of_getElem? (i := 19) rfl) h,
    fun _ h hn => decodeWord_of_group_byte (List.mem_of_getElem? (i := 30) rfl) h hn,
    fun _ _ => exec_of_setI rfl (BitVec.toNat_setWidth_of_le (by decide)),
    fun x s => exec_of_setI rfl (fontAddress_toNat (s.readV x))⟩

/-- Settles O46: group F with byte 0x1E is row 30 of the opcode map; `I` takes the masked sum, and the flag is
written last. -/
theorem indexAddOverflow : Obligations.IndexAddOverflow := by
  refine ⟨fun _ h hn => decodeWord_of_group_byte (List.mem_of_getElem? (i := 29) rfl) h hn, ?_⟩
  rintro x s _ rfl
  have hflag := flagByte_eq_ite (indexOverflow_iff s.i (s.readV x))
  exact ⟨_, rfl, rfl, indexResult_toNat s.i (s.readV x), (State.readV_writeV_self _ _ _).trans hflag,
    fun _ hr => State.readV_writeV_other _ _ hr⟩

end Sys2Proof.Machine
end

/-! ### The whole-range check (R166) -/

section
namespace Sys2Proof.Machine

variable {i : Instr} {s : State} {ok : Bool} {k : State → State}

/-- An instruction whose range check fails does nothing but report. -/
theorem exec_of_checked_false (hi : exec i s = .next (s.checked ok k)) (hok : ok = false) :
    exec i s = .next (s.raise (.outOfBoundsAddress (firstOutside s.i))) := by
  rw [hi, hok, State.checked, if_neg Bool.false_ne_true]

/-- Settles O51: the check of each of the four instructions fails. -/
theorem outOfRangeAccessSkipsInstruction : Obligations.OutOfRangeAccessSkipsInstruction := by
  intro x y n s
  refine ⟨firstOutside s.i, firstOutside_toNat s.i, ?_⟩
  have outside {m : Nat} (h : 4096 < s.i.toNat + m) : inRange s.i.toNat m = false := (inRange_false_iff _ _).2 (.inr h)
  rintro _ rfl
  refine ⟨fun h => ?_, fun h => ?_, fun h => ?_, fun hn h => ?_⟩
  · exact exec_of_checked_false rfl (outside (by omega))
  · exact exec_of_checked_false rfl (outside (by omega))
  · exact exec_of_checked_false rfl (outside (by omega))
  · have hn0 : (n == 0) = false := beq_false_of_ne (by rintro rfl; exact absurd hn (by decide))
    exact exec_of_checked_false rfl (Bool.or_eq_false_iff.2 ⟨hn0, outside (by omega)⟩)

end Sys2Proof.Machine
end

/-! ### The decimal digits (R163) -/

section
namespace Sys2Proof.Machine

variable {x : Nibble} {s : State}

theorem bcdDigits_length (b : Byte) : (bcdDigits b).length = 3 := rfl

/-- FX33 with its three bytes inside the memory (R163). -/
theorem exec_ldB_of_fits (hr : s.i.toNat + 2 ≤ 0xFFF) :
    exec (.ldB x) s = .next { s with mem := s.mem.writeBytes s.i.toNat (bcdDigits (s.readV x)) } :=
  congrArg Host.Outcome.next (if_pos ((inRange_iff s.i.toNat 3).2 (by omega)))

/-- Settles O47: the three digits are written as one block of bytes. -/
theorem decimalDigitsStored : Obligations.DecimalDigitsStored := by
  intro x s hm hr
  have hdigit (j : Nat) (hj : j < 3) :
      (s.mem.writeBytes s.i.toNat (bcdDigits (s.readV x))).read (s.i.toNat + j) = (bcdDigits (s.readV x))[j] :=
    Memory.read_writeBytes hm _ (bcdDigits (s.readV x)) (by rw [bcdDigits_length]; omega) j hj
  refine ⟨_, exec_ldB_of_fits hr, rfl, ?_, ?_, ?_, fun a ha => ?_⟩
  · exact (congrArg BitVec.toNat (hdigit 0 (by decide))).trans BitVec.toNat_udiv
  · exact (congrArg BitVec.toNat (hdigit 1 (by decide))).trans
      (BitVec.toNat_umod.trans (congrArg (· % 10) BitVec.toNat_udiv))
  · exact (congrArg BitVec.toNat (hdigit 2 (by decide))).trans BitVec.toNat_umod
  · exact Memory.read_writeBytes_outside _ _ _ (by rw [bcdDigits_length]; omega)

end Sys2Proof.Machine
end

/-! ### Register blocks (R164, R165) -/

section
namespace Sys2Proof.Machine

variable {x : Nibble} {s : State}

/-- Of a block inside the memory the increment of `I` loses no carry. -/
theorem bulkIndex_toNat (hr : s.i.toNat + x.toNat ≤ 0xFFF) :
    (s.bulkIndex x).toNat = if s.quirks.noIndexIncrement = true then s.i.toNat else s.i.toNat + x.toNat := by
  rw [State.bulkIndex, apply_ite BitVec.toNat, BitVec.toNat_add, BitVec.toNat_setWidth_of_le (by decide),
    Nat.mod_eq_of_lt (by omega)]

/-- FX65 with its block inside the memory (R165). -/
theorem exec_ldRegs_of_fits (hr : s.i.toNat + x.toNat ≤ 0xFFF) :
    exec (.ldRegs x) s = .next ((s.loadBlock (x.toNat + 1)).setI (s.bulkIndex x)) :=
  congrArg Host.Outcome.next (if_pos ((inRange_iff s.i.toNat (x.toNat + 1)).2 (by omega)))

/-- Settles O48: a block store of X + 1 registers, then the write of `I`. -/
theorem registerBlockStored : Obligations.RegisterBlockStored := by
  intro x s hm hr
  refine ⟨_, exec_stRegs_of_fits hr, congrArg (·.setI (s.bulkIndex x)) (s.storeBlock_eq _), fun y hy => ?_,
    fun a ha => ?_, bulkIndex_toNat hr⟩
  · have hread := s.storeBlock_read hm (show s.i.toNat + (x.toNat + 1) ≤ 4096 by omega) (Nat.lt_succ_of_le hy)
    rwa [BitVec.ofNat_toNat, BitVec.setWidth_eq] at hread
  · exact s.storeBlock_outside _ (by omega)

/-- Settles O49: a block load of X + 1 registers, then the write of `I`. -/
theorem registerBlockLoaded : Obligations.RegisterBlockLoaded := by
  intro x s hr
  have hread := s.loadBlock_readV (n := x.toNat + 1) x.isLt
  refine ⟨_, exec_ldRegs_of_fits hr, congrArg (·.setI (s.bulkIndex x)) (s.loadBlock_eq _), fun y hy => ?_,
    fun y hy => ?_, bulkIndex_toNat hr⟩
  · exact (hread y).trans (if_pos (by omega))
  · exact (hread y).trans (if_neg (by omega))

/-- Settles O50: the load reads the block that the store wrote, because memory and `I` are the same. -/
theorem blockStoreLoadRoundTrip : Obligations.BlockStoreLoadRoundTrip := by
  intro x s t u w hm hr hst hmem hi hld y hy
  obtain ⟨t', hst', -, hstored, -⟩ := registerBlockStored x s hm hr
  obtain rfl : t' = t := Host.Outcome.next.inj (hst'.symm.trans hst)
  obtain ⟨w', hld', -, hloaded, -⟩ := registerBlockLoaded x u (by rwa [hi])
  obtain rfl : w' = w := Host.Outcome.next.inj (hld'.symm.trans hld)
  calc w'.readV y
      = u.mem.read (u.i.toNat + y.toNat) := hloaded y hy
    _ = t'.mem.read (s.i.toNat + y.toNat) := by rw [hmem, hi]
    _ = s.readV y := hstored y hy

end Sys2Proof.Machine
end

/-! ## Display: 43_display.md

The meanings of 00E0 and DXYN, read off cell by cell through the laws of the display (R180, R181). -/

/-! ### Clear screen (R180) -/

section
namespace Sys2Proof.Machine

/-- Settles O52: 00E0 is the word that CLS encodes to, and every cell of the cleared display reads 0. -/
theorem clearScreen : Obligations.ClearScreen := by
  refine ⟨?_, fun s => ⟨_, rfl, rfl, fun r c _ _ => Display.cell_clear r c⟩⟩
  rintro _ rfl
  exact decodeWord_encode .cls

end Sys2Proof.Machine
end

/-! ### The sprite compositor (R181 to R183) -/

section
namespace Sys2Proof.Machine

variable {x y n : Nibble} {s : State}

/-- DXYN with no row, or with all its rows inside the memory: the display, then the flag (R181, decision D12). -/
theorem exec_drw_of_fits (h : n = 0 ∨ s.i.toNat + n.toNat ≤ 4096) :
    exec (.drw x y n) s = .next ((s.setDisp (s.sprite x y n).1).writeFlag (s.sprite x y n).2) := by
  have hok : (n == 0 || inRange s.i.toNat n.toNat) = true := by
    by_cases hn : n = 0
    · rw [hn]; rfl
    · have hpos : n.toNat ≠ 0 := fun h0 => hn (BitVec.eq_of_toNat_eq h0)
      rw [(inRange_iff _ _).2 ⟨Nat.pos_of_ne_zero hpos, h.resolve_left hn⟩, Bool.or_true]
  exact congrArg Host.Outcome.next (if_pos hok)

/-- DXYN with a row outside the memory draws nothing and reports (R166). -/
theorem exec_drw_of_outside (h : ¬(n = 0 ∨ s.i.toNat + n.toNat ≤ 4096)) :
    exec (.drw x y n) s = .next (s.raise (.outOfBoundsAddress (firstOutside s.i))) := by
  obtain ⟨hn, hout⟩ := not_or.1 h
  exact exec_of_checked_false rfl
    (Bool.or_eq_false_iff.2 ⟨beq_false_of_ne hn, (inRange_false_iff _ _).2 (.inr (Nat.lt_of_not_le hout))⟩)

theorem flagByte_eq_one_iff (b : Bool) : flagByte b = 1 ↔ b = true := by
  cases b <;> decide

/-- Settles O53: the cells and the flag of the drawn sprite, and a flag write that leaves every other register. -/
theorem drawXorsSprite : Obligations.DrawXorsSprite := by
  rintro x y n s _ _ hfits rfl rfl
  have hflag : State.readV ((s.setDisp (s.sprite x y n).1).writeFlag (s.sprite x y n).2) 15 =
      flagByte (s.sprite x y n).2 := State.readV_writeV_self _ _ _
  refine ⟨_, exec_drw_of_fits hfits, rfl, drawSprite_cell _ _ _ _ _ _, ?_, ?_,
    fun r hr => State.readV_writeV_other _ _ hr⟩
  · rw [hflag]
    exact flagByte_eq_zero_or_one _
  · rw [hflag, flagByte_eq_one_iff]
    exact drawSprite_hit _ _ _ _ _ _

/-- Settles O54: both draws are out of range and draw nothing, or both fall on each cell with the same sprite bit, and
the second meets the cells as the first left them. -/
theorem drawTwiceRestoresDisplay : Obligations.DrawTwiceRestoresDisplay := by
  intro x y n s t u w hfirst hdisp hmem hi hx hy hsecond
  by_cases hfits : n = 0 ∨ s.i.toNat + n.toNat ≤ 4096
  · obtain ⟨t', hfirst', -, hcell, -⟩ := drawXorsSprite x y n s _ _ hfits rfl rfl
    obtain rfl : t' = t := Host.Outcome.next.inj (hfirst'.symm.trans hfirst)
    obtain ⟨w', hsecond', -, hcell', -, hflag, -⟩ := drawXorsSprite x y n u _ _ (by rwa [hi]) rfl rfl
    obtain rfl : w' = w := Host.Outcome.next.inj (hsecond'.symm.trans hsecond)
    rw [hmem, hi, hx, hy, hdisp] at hcell' hflag
    refine ⟨Display.ext_cell fun r c hr hc => ?_, fun _ => hflag.trans ?_⟩
    · rw [hcell' r c hr hc, hcell r c hr hc, Bool.xor_assoc, Bool.xor_self, Bool.xor_false]
    · exact exists₂_congr fun r c => and_congr_right fun hr => and_congr_right fun hc => and_congr_left fun hbit => by
        rw [hcell r c hr hc, hbit, Bool.xor_true, Bool.not_eq_true']
  · have ht : s.raise _ = t := Host.Outcome.next.inj ((exec_drw_of_outside hfits).symm.trans hfirst)
    have hw : u.raise _ = w := Host.Outcome.next.inj ((exec_drw_of_outside (by rwa [hi])).symm.trans hsecond)
    refine ⟨?_, fun h => absurd h hfits⟩
    calc w.disp
        = u.disp := hw ▸ rfl
      _ = t.disp := hdisp
      _ = s.disp := ht ▸ rfl

end Sys2Proof.Machine
end

/-! ## Random, keypad, timers: 44_timers_keys_random.md

Every meaning here is one register write, timer write or skip, but FX0A's, which rewinds pc while no key is held. -/

/-! ### Random byte and timer moves (R190, R193, R195, R196) -/

section
namespace Sys2Proof.Machine

/-- Settles O55: group C is row 22 of the opcode map, and the masked sample goes to V[X]. -/
theorem randomByteMasked : Obligations.RandomByteMasked :=
  ⟨fun _ h => decodeWord_of_group (List.mem_of_getElem? (i := 21) rfl) h,
    fun _ nn s => exec_of_writeV (fun c => ∀ j, c.getLsbD j = (s.rnd.getLsbD j && nn.getLsbD j)) rfl
      (fun _ => BitVec.getLsbD_and)⟩

/-- Settles O57: group F with bytes 0x07, 0x15 and 0x18 are rows 26, 28 and 29 of the opcode map, and each instruction is
one register or timer write. -/
theorem timerMoves : Obligations.TimerMoves :=
  ⟨fun _ h => ⟨fun hn => decodeWord_of_group_byte (List.mem_of_getElem? (i := 25) rfl) h hn,
      fun hn => decodeWord_of_group_byte (List.mem_of_getElem? (i := 27) rfl) h hn,
      fun hn => decodeWord_of_group_byte (List.mem_of_getElem? (i := 28) rfl) h hn⟩,
    fun _ s => ⟨exec_of_writeV (· = s.dt) rfl rfl, rfl, rfl⟩⟩

end Sys2Proof.Machine
end

/-! ### Keys (R191, R192, R194) -/

section
namespace Sys2Proof.Machine

/-- The least held key, when some key is held: it is one of the sixteen, held, and no lower key is. -/
theorem leastKey_spec {keys : BitVec 16} (h : keys ≠ 0) :
    leastKey keys < 16 ∧ keys.getLsbD (leastKey keys) = true ∧ ∀ j < leastKey keys, keys.getLsbD j = false := by
  cases hfind : (List.range 16).find? (fun j => keys.getLsbD j) with
  | none =>
    have hnone := List.find?_eq_none.1 hfind
    refine absurd (BitVec.eq_of_getLsbD_eq fun j hj => ?_) h
    simpa using hnone j (List.mem_range.2 hj)
  | some k =>
    have hk : leastKey keys = k := congrArg (·.getD 0) hfind
    obtain ⟨hheld, hlt, hmin⟩ := List.find?_range_eq_some.1 hfind
    rw [hk]
    exact ⟨List.mem_range.1 hlt, hheld, fun j hj => by simpa using hmin j hj⟩

variable {s : State} {x : Nibble}

theorem exec_ldVxK_of_noKey (h : s.keys = 0) : exec (.ldVxK x) s = .next { s with pc := s.pc - 2 } :=
  congrArg Host.Outcome.next (if_pos h)

theorem exec_ldVxK_of_key (h : s.keys ≠ 0) :
    exec (.ldVxK x) s = .next (s.writeV x (BitVec.ofNat 8 (leastKey s.keys))) :=
  congrArg Host.Outcome.next (if_neg h)

/-- Settles O58: group F with byte 0x0A is row 27 of the opcode map, and a key's number fits a register. -/
theorem waitForKey : Obligations.WaitForKey := by
  refine ⟨fun _ h hn => decodeWord_of_group_byte (List.mem_of_getElem? (i := 26) rfl) h hn,
    fun x s => ⟨exec_ldVxK_of_noKey, fun h => ?_⟩⟩
  obtain ⟨hlt, hheld, hmin⟩ := leastKey_spec h
  have hbyte : (BitVec.ofNat 8 (leastKey s.keys)).toNat = leastKey s.keys := Nat.mod_eq_of_lt (by omega)
  obtain ⟨t, hexec, hv, hx, hother⟩ := exec_of_writeV (·.toNat = leastKey s.keys) (exec_ldVxK_of_key h) hbyte
  exact ⟨t, leastKey s.keys, hexec, hv, hlt, hheld, hmin, hx, hother⟩

/-- A value names a held key when it is below 16 and its bit of the key vector is 1 (decision D15). -/
theorem State.keyHeld_iff (s : State) (b : Byte) :
    s.keyHeld b = true ↔ b.toNat < 16 ∧ s.keys.toNat.testBit b.toNat = true := by
  rw [State.keyHeld, Bool.and_eq_true, decide_eq_true_eq]
  rfl

theorem State.skipIf_not (s : State) (c : Bool) :
    s.skipIf (!c) = { s with pc := if c then s.pc else s.pc + 2 } := by
  cases c <;> rfl

/-- Settles O56: EX9E skips when V[X] names a held key, EXA1 when it does not. -/
theorem keySkips : Obligations.KeySkips := by
  rintro x s _ rfl
  simp only [← s.keyHeld_iff]
  exact ⟨congrArg Host.Outcome.next (s.skipIf_eq _), congrArg Host.Outcome.next (s.skipIf_not _)⟩

end Sys2Proof.Machine
end

/-! ### The sound timer is not read (R193, R196) -/

section
namespace Sys2Proof.Machine

section
variable (s : State) (b : Byte)

/-! The shared operations that branch or loop carry `ST` through. -/

theorem State.skipIf_setSt (c : Bool) : (s.setSt b).skipIf c = (s.skipIf c).setSt b := by
  cases c <;> rfl

theorem State.popPc_setSt : (s.setSt b).popPc = s.popPc.setSt b := by
  rcases s with ⟨v, i, pc, stack⟩
  cases stack <;> rfl

theorem State.checked_setSt {f : State → State} (hf : f (s.setSt b) = (f s).setSt b) (ok : Bool) :
    (s.setSt b).checked ok f = (s.checked ok f).setSt b := by
  cases ok with
  | false => rfl
  | true => exact hf

theorem State.storeBlock_setSt (n : Nat) : (s.setSt b).storeBlock n = (s.storeBlock n).setSt b :=
  List.foldl_hom (fun t : State => t.setSt b) (fun _ _ => rfl)

theorem State.loadBlock_setSt (n : Nat) : (s.setSt b).loadBlock n = (s.loadBlock n).setSt b :=
  List.foldl_hom (fun t : State => t.setSt b) (fun _ _ => rfl)

end

/-- Every instruction but FX18, which overwrites `ST`, carries it through and does the same whatever it holds. -/
theorem exec_setSt {i : Instr} (hi : ∀ x, i ≠ .ldStVx x) (s : State) (b : Byte) :
    exec i (s.setSt b) = mapNext (fun t => t.setSt b) (exec i s) := by
  cases i with
  | ldStVx x => exact absurd rfl (hi x)
  | ret => exact congrArg _ (s.popPc_setSt b)
  | seImm | sneImm | seReg | sneReg | skp | sknp => exact congrArg _ (s.skipIf_setSt b _)
  | ldVxK x =>
    by_cases h : s.keys = 0
    · rw [exec_ldVxK_of_noKey h, exec_ldVxK_of_noKey (s := s.setSt b) h]
      rfl
    · rw [exec_ldVxK_of_key h, exec_ldVxK_of_key (s := s.setSt b) h]
      rfl
  | drw | ldB => exact congrArg _ (s.checked_setSt b rfl _)
  | stRegs x =>
    exact congrArg _ (s.checked_setSt b (congrArg (·.setI (s.bulkIndex x)) (s.storeBlock_setSt b _)) _)
  | ldRegs x =>
    exact congrArg _ (s.checked_setSt b (congrArg (·.setI (s.bulkIndex x)) (s.loadBlock_setSt b _)) _)
  | _ => rfl

/-- Settles O19: FX18 puts the same byte into `ST` whatever it held, and every other instruction carries it through. -/
theorem soundTimerIsUnread : Obligations.SoundTimerIsUnread := by
  intro i s b
  by_cases hi : ∃ x, i = .ldStVx x
  · obtain ⟨x, rfl⟩ := hi
    rfl
  · have e := exec_setSt (fun x hx => hi ⟨x, hx⟩) s b
    exact (congrArg _ e).trans (mapNext_mapNext _ _ _)

end Sys2Proof.Machine
end

/-! ## Reports, no traps, timers: 60_exceptions.md

A report is all that an exception is here: an output that no rule reads back. -/

/-! ### Reports are only written (R215, R216, R218) -/

section
namespace Sys2Proof.Machine

/-- `s` with another report output and another record of reports. -/
def State.withReports (s : State) (r : Report) (l : List Report) : State := { s with report := r, reported := l }

/-- From `s`, whatever its reports, `m` answers a next state and raises nothing or one report; which of these, the report
and every other element of the next state do not depend on the reports of `s`. -/
def RaisesAtMostOnce (m : State → Host.Outcome State Fault Refusal) (s : State) : Prop :=
  ∃ t : State, (∀ r l, m (s.withReports r l) = .next (t.withReports r l)) ∨
    ∃ e : Report, e ≠ .none ∧ ∀ r l, m (s.withReports r l) = .next ((t.withReports r l).raise e)

namespace RaisesAtMostOnce

variable {m : State → Host.Outcome State Fault Refusal} {s t : State}

/-- What carries the reports through raises none. -/
theorem of_commutes (h : m s = .next t) (hm : ∀ r l, m (s.withReports r l) = mapNext (·.withReports r l) (m s)) :
    RaisesAtMostOnce m s :=
  ⟨t, .inl fun r l => (hm r l).trans (congrArg _ h)⟩

/-- A next state follows (R218). -/
theorem exists_next (h : RaisesAtMostOnce m s) : ∃ t, m s = .next t := by
  obtain ⟨t, e | ⟨_, -, e⟩⟩ := h
  · exact ⟨_, e s.report s.reported⟩
  · exact ⟨_, e s.report s.reported⟩

/-- The output and the record stay, or both take the one report raised (R215). -/
theorem reports (h : RaisesAtMostOnce m s) (ht : m s = .next t) :
    (t.report = s.report ∧ t.reported = s.reported) ∨ (t.report ≠ .none ∧ t.reported = t.report :: s.reported) := by
  obtain ⟨t', e | ⟨_, hne, e⟩⟩ := h
  · cases ht.symm.trans (e s.report s.reported)
    exact .inl ⟨rfl, rfl⟩
  · cases ht.symm.trans (e s.report s.reported)
    exact .inr ⟨hne, rfl⟩

/-- Up to the reports, the outcome does not depend on them (R216). -/
theorem unobservable (h : RaisesAtMostOnce m s) (r r' : Report) (l l' : List Report) :
    mapNext (·.withReports .none []) (m (s.withReports r l)) =
      mapNext (·.withReports .none []) (m (s.withReports r' l')) := by
  obtain ⟨t, e | ⟨_, -, e⟩⟩ := h
  · rw [e, e]; rfl
  · rw [e, e]; rfl

end RaisesAtMostOnce

section
variable (s : State)

/-! The shared operations: a skip and a block transfer carry the reports through, a pop and a range check may raise. -/

theorem State.skipIf_withReports (r : Report) (l : List Report) (c : Bool) :
    (s.withReports r l).skipIf c = (s.skipIf c).withReports r l := by
  cases c <;> rfl

theorem State.storeBlock_withReports (r : Report) (l : List Report) (n : Nat) :
    (s.withReports r l).storeBlock n = (s.storeBlock n).withReports r l :=
  List.foldl_hom (fun t : State => t.withReports r l) (fun _ _ => rfl)

theorem State.loadBlock_withReports (r : Report) (l : List Report) (n : Nat) :
    (s.withReports r l).loadBlock n = (s.loadBlock n).withReports r l :=
  List.foldl_hom (fun t : State => t.withReports r l) (fun _ _ => rfl)

theorem popPc_raisesAtMostOnce : RaisesAtMostOnce (fun s => .next s.popPc) s := by
  cases hs : s.stack with
  | nil => exact ⟨s, .inr ⟨.stackUnderflow, nofun, fun _ _ => exec_ret_of_nil hs⟩⟩
  | cons a rest => exact ⟨{ s with pc := a, stack := rest }, .inl fun _ _ => exec_ret_of_cons hs⟩

/-- A range check that fails is the instruction's only report (R166). -/
theorem checked_raisesAtMostOnce {ok : State → Bool} {k : State → State}
    (hok : ∀ r l, ok (s.withReports r l) = ok s) (hk : ∀ r l, k (s.withReports r l) = (k s).withReports r l) :
    RaisesAtMostOnce (fun s => .next (s.checked (ok s) k)) s := by
  cases h : ok s with
  | false =>
    exact ⟨s, .inr ⟨.outOfBoundsAddress (firstOutside s.i), nofun, fun r l => by simp only [hok, h]; rfl⟩⟩
  | true => exact ⟨k s, .inl fun r l => by simp only [hok, h, ← hk]; rfl⟩

end

/-- Only a pop and the range check raise, and no instruction does both. -/
theorem exec_raisesAtMostOnce (i : Instr) (s : State) : RaisesAtMostOnce (exec i) s := by
  cases i with
  | ret => exact popPc_raisesAtMostOnce s
  | drw | ldB => exact checked_raisesAtMostOnce s (fun _ _ => rfl) fun _ _ => rfl
  | stRegs x =>
    exact checked_raisesAtMostOnce s (fun _ _ => rfl) fun r l =>
      congrArg (·.setI (s.bulkIndex x)) (s.storeBlock_withReports r l _)
  | ldRegs x =>
    exact checked_raisesAtMostOnce s (fun _ _ => rfl) fun r l =>
      congrArg (·.setI (s.bulkIndex x)) (s.loadBlock_withReports r l _)
  | seImm | sneImm | seReg | sneReg | skp | sknp =>
    exact .of_commutes rfl fun r l => congrArg _ (s.skipIf_withReports r l _)
  | ldVxK x =>
    by_cases h : s.keys = 0
    · exact ⟨{ s with pc := s.pc - 2 }, .inl fun r l => exec_ldVxK_of_noKey (s := s.withReports r l) h⟩
    · exact ⟨s.writeV x (BitVec.ofNat 8 (leastKey s.keys)), .inl fun r l =>
        exec_ldVxK_of_key (s := s.withReports r l) h⟩
  | _ => exact .of_commutes rfl fun _ _ => rfl

/-- The two reports of the fetch exclude each other and the instruction's (R215). -/
theorem fetchExecute_raisesAtMostOnce (s : State) : RaisesAtMostOnce fetchExecute s := by
  by_cases hpc : s.pc.toNat ≤ 0x0FFE
  · cases hd : decodeWord s.fetchWord with
    | none =>
      exact ⟨s.advance, .inr ⟨.unmatchedOpcode s.fetchWord, nofun, fun r l =>
        fetchExecute_of_unmatched (s := s.withReports r l) hpc hd⟩⟩
    | some i =>
      have e (r : Report) (l : List Report) : fetchExecute (s.withReports r l) = exec i (s.advance.withReports r l) :=
        fetchExecute_of_matched (s := s.withReports r l) hpc hd
      simpa only [RaisesAtMostOnce, e] using exec_raisesAtMostOnce i s.advance
  · exact ⟨s, .inr ⟨.outOfBoundsAddress (firstOutside s.pc), nofun, fun r l =>
      fetchExecute_of_outside (s := s.withReports r l) (not_le.1 hpc)⟩⟩

/-- Which operation comes next, and its inputs, do not depend on the reports. -/
theorem State.NextIsStep.withReports {s u : State} {k : BitVec 16} {b : Byte} (h : s.NextIsStep k b u) (r : Report)
    (l : List Report) : (s.withReports r l).NextIsStep k b (u.withReports r l) := by
  rcases h with ⟨rest, hq, rfl⟩ | ⟨hq, hk, hb, rfl⟩
  · exact .inl ⟨rest, hq, rfl⟩
  · exact .inr ⟨hq, hk, hb, rfl⟩

/-- The same operation is served whatever the reports are; a Step clears the output and reads no report, a Tick reads the
timers only, and a Reset clears both. -/
theorem step_withReports (s : State) (r : Report) (l : List Report) :
    mapNext (·.withReports .none []) (step (s.withReports r l)) = mapNext (·.withReports .none []) (step s) := by
  rcases step_cases s with ⟨k, b, u, hu, e⟩ | ⟨q, hq, e⟩ | ⟨q, hq, hf, e⟩ | ⟨inp, q, hq, e⟩ <;> rw [e]
  · rw [step_of_nextIsStep (hu.withReports r l)]
    exact (fetchExecute_raisesAtMostOnce (u.sample k b)).unobservable .none .none l u.reported
  · rw [step_of_tick (s := s.withReports r l) hq]
    rfl
  · rw [step_of_free_tick (s := s.withReports r l) hq hf]
    rfl
  · rw [step_of_reset (s := s.withReports r l) hq]
    rfl

/-- Settles O14: no operation reads a report. -/
theorem reportsAreUnobservable : Obligations.ReportsAreUnobservable := step_withReports

/-- Settles O12: a Step and an instruction raise at most one report and answer a next state. -/
theorem nothingStopsTheMachine : Obligations.NothingStopsTheMachine := by
  refine ⟨fun s u k r hu => ?_, fun i s => (exec_raisesAtMostOnce i s).exists_next⟩
  rw [step_of_nextIsStep hu]
  exact (fetchExecute_raisesAtMostOnce _).exists_next

/-- Settles O13: the sample clears the output and keeps the record. -/
theorem atMostOneReportPerStep : Obligations.AtMostOneReportPerStep := by
  intro s u t k r hu ht
  rw [step_of_nextIsStep hu, hu.eq_with] at ht
  exact (fetchExecute_raisesAtMostOnce _).reports ht

/-- Settles O10: the outcome of the Step algorithm for an unmatched word. -/
theorem unmatchedWordIsReportedNoop : Obligations.UnmatchedWordIsReportedNoop := by
  intro s u k r op hu hpc hop hd
  have hstep := ((stepAlgorithm s u k r hu).2 hpc op hop).1 hd
  rw [hu.eq_with] at hstep
  exact ⟨_, hstep, rfl, rfl, rfl, rfl, rfl, rfl, rfl, rfl, rfl, rfl, rfl, rfl⟩

end Sys2Proof.Machine
end

/-! ### A fetch out of range (R213) -/

section
namespace Sys2Proof.Machine

/-- A Step that cannot fetch changes no element of the block's state, and reports. -/
theorem step_of_outside {s u : State} {k : BitVec 16} {r : Byte} (hu : s.NextIsStep k r u) (hpc : 0x0FFE < s.pc.toNat) :
    ∃ t p, step s = .next t ∧ t.requests = u.requests ∧ t.SameBlock s ∧ t.report = .outOfBoundsAddress p ∧
      p.toNat = max s.pc.toNat 0x1000 := by
  obtain ⟨p, hp, hstep⟩ := (stepAlgorithm s u k r hu).1 hpc
  rw [hu.eq_with] at hstep
  exact ⟨_, p, hstep, rfl, ⟨rfl, rfl, rfl, rfl, rfl, rfl, rfl, rfl, rfl, rfl⟩, rfl, hp⟩

/-- A Step takes its request from the host's list, or leaves the list as it is. -/
theorem State.NextIsStep.requests_subset {s u : State} {k : BitVec 16} {r : Byte} (h : s.NextIsStep k r u) :
    u.requests ⊆ s.requests := by
  rcases h with ⟨rest, hq, rfl⟩ | ⟨-, -, -, rfl⟩
  · rw [hq]
    exact List.subset_cons_self _ _
  · exact List.Subset.refl _

/-- From `s` to `t` nothing new was requested and no element of the block's state changed but the timers; and not these
either where only Steps were requested. -/
structure State.Stands (s t : State) : Prop where
  requests : t.requests ⊆ s.requests
  block : State.SameBlock { t with dt := s.dt, st := s.st } s
  timers : (∀ q ∈ s.requests, q.isStep = true) → t.dt = s.dt ∧ t.st = s.st

namespace State.Stands

variable {s t u : State}

theorem refl (s : State) : s.Stands s :=
  ⟨List.Subset.refl _, ⟨rfl, rfl, rfl, rfl, rfl, rfl, rfl, rfl, rfl, rfl⟩, fun _ => ⟨rfl, rfl⟩⟩

theorem pc (h : s.Stands t) : t.pc = s.pc := by
  obtain ⟨-, -, hpc, -⟩ := h.block
  exact hpc

theorem trans (h : s.Stands t) (h' : t.Stands u) : s.Stands u where
  requests := List.Subset.trans h'.requests h.requests
  block := by
    obtain ⟨v, i, pc, stack, disp, -, -, quirks, halted, mem⟩ := h.block
    obtain ⟨v', i', pc', stack', disp', -, -, quirks', halted', mem'⟩ := h'.block
    exact ⟨v'.trans v, i'.trans i, pc'.trans pc, stack'.trans stack, disp'.trans disp, rfl, rfl, quirks'.trans quirks,
      halted'.trans halted, mem'.trans mem⟩
  timers hs := by
    obtain ⟨hdt, hst⟩ := h.timers hs
    obtain ⟨hdt', hst'⟩ := h'.timers fun q hq => hs q (h.requests hq)
    exact ⟨hdt'.trans hdt, hst'.trans hst⟩

/-- A Tick, which is no Step, changes the timers only. -/
theorem of_tick {q : List Request} {x : Request} (d : Nat) (hq : q ⊆ s.requests) (hx : x ∈ s.requests)
    (hstep : x.isStep = false) : s.Stands (State.tick { s with requests := q, drawn := d }) where
  requests := hq
  block := ⟨rfl, rfl, rfl, rfl, rfl, rfl, rfl, rfl, rfl, rfl⟩
  timers hs := nomatch hstep.symm.trans (hs x hx)

end State.Stands

/-- One operation at a pc that cannot be fetched, when it is no Reset. -/
theorem step_stands {s : State} (hpc : 0x0FFE < s.pc.toNat) (hreset : ∀ inp, .reset inp ∉ s.requests) :
    ∃ t, step s = .next t ∧ s.Stands t := by
  rcases step_cases s with ⟨k, r, u, hu, -⟩ | ⟨q, hq, e⟩ | ⟨q, hq, -, e⟩ | ⟨inp, q, hq, -⟩
  · obtain ⟨t, -, hstep, hreq, hblock, -, -⟩ := step_of_outside hu hpc
    obtain ⟨v, i, pc, stack, disp, dt, st, quirks, halted, mem⟩ := hblock
    exact ⟨t, hstep, hreq ▸ hu.requests_subset, ⟨v, i, pc, stack, disp, rfl, rfl, quirks, halted, mem⟩,
      fun _ => ⟨dt, st⟩⟩
  · exact ⟨_, e, .of_tick s.drawn (by simp [hq]) (x := .tick) (by simp [hq]) rfl⟩
  · exact ⟨_, e, .of_tick (s.drawn + 1) (List.Subset.refl _) (x := .free) (by simp [hq]) rfl⟩
  · exact absurd (by simp [hq]) (hreset inp)

/-- The machine stands at such a pc through any number of operations without a Reset. -/
theorem run_stands (n : Nat) {s : State} (hpc : 0x0FFE < s.pc.toNat) (hreset : ∀ inp, .reset inp ∉ s.requests) :
    ∃ t, Sys2Proof.core.run n s = .next t ∧ s.Stands t := by
  induction n generalizing s with
  | zero => exact ⟨s, rfl, .refl s⟩
  | succ n ih =>
    obtain ⟨t, hstep, hst⟩ := step_stands hpc hreset
    obtain ⟨u, hrun, htu⟩ := ih (s := t) (by rwa [hst.pc]) fun inp h => hreset inp (hst.requests h)
    exact ⟨u, (run_succ_of_next hstep).trans hrun, hst.trans htu⟩

/-- Settles O11: one Step by the Step algorithm, and runs by induction on their length; where only Steps are requested the
timers stand too. -/
theorem fetchOutOfRangeStandsStill : Obligations.FetchOutOfRangeStandsStill := by
  refine ⟨fun s u k r hu hpc => ?_, fun s n hpc hs => ?_, fun s n hpc hreset => ?_⟩
  · obtain ⟨t, p, hstep, -, h⟩ := step_of_outside hu hpc
    exact ⟨t, p, hstep, h⟩
  · obtain ⟨t, hrun, ht⟩ := run_stands n hpc fun inp h => nomatch hs _ h
    obtain ⟨hdt, hst⟩ := ht.timers hs
    obtain ⟨v, i, pc, stack, disp, -, -, rest⟩ := ht.block
    exact ⟨t, hrun, v, i, pc, stack, disp, hdt, hst, rest⟩
  · obtain ⟨t, hrun, ht⟩ := run_stands n hpc hreset
    exact ⟨t, hrun, ht.block⟩

end Sys2Proof.Machine
end

/-! ### Tick (R221) -/

section
namespace Sys2Proof.Machine

theorem countdown_toNat (b : Byte) : (countdown b).toNat = b.toNat - 1 := by
  unfold countdown
  split
  next h => rw [h]; rfl
  next h =>
    have hb : b.toNat ≠ 0 := fun h' => h (BitVec.eq_of_toNat_eq h')
    exact BitVec.toNat_sub_of_le (BitVec.le_def.2 (Nat.pos_of_ne_zero hb))

theorem tick_iterate_timers (s : State) (n : Nat) :
    (State.tick^[n] s).dt.toNat = s.dt.toNat - n ∧ (State.tick^[n] s).st.toNat = s.st.toNat - n := by
  induction n with
  | zero => exact ⟨rfl, rfl⟩
  | succ n ih =>
    obtain ⟨hdt, hst⟩ := ih
    rw [Function.iterate_succ_apply', State.tick_dt, State.tick_st, countdown_toNat, countdown_toNat, hdt, hst]
    exact ⟨Nat.sub_sub .., Nat.sub_sub ..⟩

/-- Settles O22: a listed Tick is `State.tick`, whose countdown is truncated subtraction. -/
theorem tickCountsDown : Obligations.TickCountsDown :=
  ⟨fun s _ hq => ⟨_, step_of_tick hq, rfl, countdown_toNat s.dt, countdown_toNat s.st⟩, tick_iterate_timers⟩

end Sys2Proof.Machine
end

/-! ## Reset, the order of operations, infinite runs: 70_reset_and_hazards.md

Reset's values are read off `State.reset`. What the host will ask for is unread by any operation already under way, so
an open-ended host's run is the run under the word of its free operations. -/

/-! ### Reset (R250, R262) -/

section
namespace Sys2Proof.Machine

/-- The registers at reset (R21, decision D3). -/
theorem State.reset_readV (x : Nibble) : State.reset.readV x = 0 := Vector.getElem_replicate _

/-- The display at reset is the cleared one (R28). -/
theorem State.reset_cell (r c : Nat) : State.reset.disp.cell r c = false := Display.cell_clear r c

/-- Settles O27: every address outside the font is unlisted at reset and reads as the fill. -/
theorem resetStateValues : Obligations.ResetStateValues :=
  ⟨State.reset_readV, rfl, rfl, rfl, State.reset_cell, rfl, rfl, rfl, rfl, fun _ => unlistedByte_of_outside_font⟩

/-- Settles O24: a Reset that fits leaves `State.reset` with the quirk bits and the memory image of its inputs. -/
theorem resetLeavesTheResetState : Obligations.ResetLeavesTheResetState := by
  intro s inp q hq hp
  obtain ⟨hmem, -⟩ := resetWith_inv hp { s with requests := q }
  exact ⟨_, step_of_reset_fits hq hp, State.reset_readV, rfl, rfl, rfl, State.reset_cell, rfl, rfl, rfl, rfl, rfl, rfl,
    rfl, rfl, hmem, rfl, rfl⟩

end Sys2Proof.Machine
end

/-! ### FX15 and Tick in either order (R256) -/

section
namespace Sys2Proof.Machine

/-- Settles O23: FX15 overwrites `DT` whatever a Tick left there, and a Tick counts down what FX15 wrote. -/
theorem timerWriteAndTickOrder : Obligations.TimerWriteAndTickOrder := fun x s =>
  ⟨⟨_, rfl, countdown_toNat (s.readV x)⟩, _, rfl, rfl⟩

end Sys2Proof.Machine
end

/-! ### The host's list is not read while an operation runs (R36) -/

section
namespace Sys2Proof.Machine

/-- `s` with another list of the host's requests and another count of free inputs. -/
def State.withHost (s : State) (q : List Request) (d : Nat) : State := { s with requests := q, drawn := d }

variable (s : State) (q : List Request) (d : Nat)

/-! The shared operations that branch or loop carry them through. -/

theorem State.skipIf_withHost (c : Bool) : (s.withHost q d).skipIf c = (s.skipIf c).withHost q d := by
  cases c <;> rfl

theorem State.popPc_withHost : (s.withHost q d).popPc = s.popPc.withHost q d := by
  rcases s with ⟨v, i, pc, stack⟩
  cases stack <;> rfl

theorem State.checked_withHost {f : State → State} (hf : f (s.withHost q d) = (f s).withHost q d) (ok : Bool) :
    (s.withHost q d).checked ok f = (s.checked ok f).withHost q d := by
  cases ok with
  | false => rfl
  | true => exact hf

theorem State.storeBlock_withHost (n : Nat) : (s.withHost q d).storeBlock n = (s.storeBlock n).withHost q d :=
  List.foldl_hom (fun t : State => t.withHost q d) (fun _ _ => rfl)

theorem State.loadBlock_withHost (n : Nat) : (s.withHost q d).loadBlock n = (s.loadBlock n).withHost q d :=
  List.foldl_hom (fun t : State => t.withHost q d) (fun _ _ => rfl)

/-- Every instruction carries the host's list and count through and does the same whatever they are. -/
theorem exec_withHost (i : Instr) : exec i (s.withHost q d) = mapNext (·.withHost q d) (exec i s) := by
  cases i with
  | ret => exact congrArg _ (s.popPc_withHost q d)
  | seImm | sneImm | seReg | sneReg | skp | sknp => exact congrArg _ (s.skipIf_withHost q d _)
  | ldVxK x =>
    by_cases h : s.keys = 0
    · rw [exec_ldVxK_of_noKey h]
      exact exec_ldVxK_of_noKey (s := s.withHost q d) h
    · rw [exec_ldVxK_of_key h]
      exact exec_ldVxK_of_key (s := s.withHost q d) h
  | drw | ldB => exact congrArg _ (s.checked_withHost q d rfl _)
  | stRegs x =>
    exact congrArg _ (s.checked_withHost q d (congrArg (·.setI (s.bulkIndex x)) (s.storeBlock_withHost q d _)) _)
  | ldRegs x =>
    exact congrArg _ (s.checked_withHost q d (congrArg (·.setI (s.bulkIndex x)) (s.loadBlock_withHost q d _)) _)
  | _ => rfl

/-- The fetch and its two reports do not read them either. -/
theorem fetchExecute_withHost : fetchExecute (s.withHost q d) = mapNext (·.withHost q d) (fetchExecute s) := by
  by_cases hpc : s.pc.toNat ≤ 0x0FFE
  · cases hd : decodeWord s.fetchWord with
    | none =>
      rw [fetchExecute_of_unmatched hpc hd, fetchExecute_of_unmatched (s := s.withHost q d) hpc hd]
      rfl
    | some i =>
      rw [fetchExecute_of_matched hpc hd, fetchExecute_of_matched (s := s.withHost q d) hpc hd]
      exact exec_withHost s.advance q d i
  · rw [fetchExecute_of_outside (not_le.1 hpc), fetchExecute_of_outside (s := s.withHost q d) (not_le.1 hpc)]
    rfl

end Sys2Proof.Machine
end

/-! ### Infinite runs (R257, R261) -/

section
namespace Sys2Proof.Machine

/-- A Step or a Tick asked for alone answers a next state (R218, R221). -/
theorem step_exists_next {r : Request} (hr : r = .tick ∨ r.isStep = true) (s : State) :
    ∃ t, step { s with requests := [r] } = .next t := by
  cases r with
  | step k b => exact nothingStopsTheMachine.1 _ _ k b (.inl ⟨[], rfl, rfl⟩)
  | tick => exact ⟨_, step_of_tick rfl⟩
  | reset | free => simp [Request.isStep] at hr

/-- From any state there is a run under a word whose every operation answers a next state. -/
theorem exists_run {ops : Nat → Request} (h : IsHostWord ops) (s : State) :
    ∃ σ : Nat → State, σ 0 = s ∧ IsRun ops σ := by
  choose next hnext using fun n => step_exists_next (h n)
  exact ⟨Nat.rec s next, rfl, fun n => hnext n _⟩

/-- An open-ended host serves its free operation just as if that had been asked for alone. -/
theorem step_free {s t : State} (d : Nat) (q : List Request)
    (h : step { s with requests := [freeOperation d] } = .next t) :
    step (s.withHost (.free :: q) d) = .next (t.withHost (.free :: q) (d + 1)) := by
  cases hf : Config.freeTick d with
  | true =>
    simp only [freeOperation, hf, if_true] at h
    cases h
    exact step_of_free_tick rfl hf
  | false =>
    simp only [freeOperation, hf, Bool.false_eq_true, if_false] at h
    rw [step_of_nextIsStep (.inl ⟨[], rfl, rfl⟩)] at h
    rw [step_of_nextIsStep (.inr ⟨.inr ⟨⟨q, rfl⟩, hf⟩, rfl, rfl, rfl⟩)]
    exact (fetchExecute_withHost _ (.free :: q) (d + 1)).trans (congrArg _ h)

/-- The machine's own run from the `k`-th state of a run under the free operations stays on that run. -/
theorem core_run_free {σ : Nat → State} {d : Nat} (q : List Request) (hσ : IsRun (fun m => freeOperation (d + m)) σ)
    (n k : Nat) : Sys2Proof.core.run n ((σ k).withHost (.free :: q) (d + k)) =
      .next ((σ (k + n)).withHost (.free :: q) (d + (k + n))) := by
  induction n generalizing k with
  | zero => rfl
  | succ n ih =>
    have hrun := ih (k + 1)
    rw [Nat.succ_add_eq_add_succ] at hrun
    exact (run_succ_of_next (step_free (d + k) q (hσ k))).trans hrun

/-- Settles O59: each state of the run is chosen from the one before, and the machine's own run goes from a state of the
run to the next. -/
theorem everyHostWordIsARun : Obligations.EveryHostWordIsARun := by
  refine ⟨fun ops s h => exists_run h s, ?_⟩
  rintro _ q σ hq rfl hσ n
  have hrun := core_run_free q hσ n 0
  rw [← hq, Nat.zero_add] at hrun
  exact hrun

end Sys2Proof.Machine
end

/-! ### Tick fairness (R257) -/

section
namespace Sys2Proof.Machine

variable {ops : Nat → Request} {σ : Nat → State}

/-- A Tick of a run counts `DT` down (R221). -/
theorem IsRun.dt_of_tick (hσ : IsRun ops σ) {n : Nat} (hn : ops n = .tick) : (σ (n + 1)).dt = countdown (σ n).dt := by
  have h := hσ n
  rw [hn, step_of_tick rfl] at h
  rw [← Host.Outcome.next.inj h]
  rfl

/-- While no Step changes `DT`, a run never raises it. -/
theorem IsRun.dt_antitone (hσ : IsRun ops σ) (hw : IsHostWord ops)
    (hs : ∀ n, (ops n).isStep = true → (σ (n + 1)).dt = (σ n).dt) : Antitone fun n => (σ n).dt.toNat := by
  refine antitone_nat_of_succ_le fun n => ?_
  rcases hw n with htick | hstep
  · rw [hσ.dt_of_tick htick, countdown_toNat]
    exact Nat.sub_le _ _
  · rw [hs n hstep]

/-- A falling `DT` settles at some value, and a Tick that still comes leaves only 0 as it was. -/
theorem IsRun.exists_dt_eq_zero (hσ : IsRun ops σ) (hfair : TickFair ops) (hanti : Antitone fun n => (σ n).dt.toNat) :
    ∃ N, ∀ n, N ≤ n → (σ n).dt = 0 := by
  obtain ⟨N, hconst⟩ := WellFoundedLT.antitone_chain_condition hanti
  obtain ⟨m, hm, htick⟩ := hfair N
  have hzero : (σ N).dt.toNat = 0 := by
    have hnext := hconst (m + 1) (by omega)
    rw [hσ.dt_of_tick htick, countdown_toNat, ← hconst m hm] at hnext
    omega
  exact ⟨N, fun n hn => BitVec.eq_of_toNat_eq ((hconst n hn).symm.trans hzero)⟩

/-- Settles O60: past the point where `DT` has reached 0, Step fairness still brings a Step. -/
theorem tickFairRunBringsDelayToZero : Obligations.TickFairRunBringsDelayToZero := by
  intro ops σ hw hσ hfair hs
  obtain ⟨N₀, hzero⟩ := hσ.exists_dt_eq_zero hfair (hσ.dt_antitone hw hs)
  refine ⟨⟨N₀, hzero⟩, fun hsteps N => ?_⟩
  obtain ⟨n, hn, hstep⟩ := hsteps (max N N₀)
  exact ⟨n, le_of_max_le_left hn, hstep, hzero n (le_of_max_le_right hn)⟩

end Sys2Proof.Machine
end
